-- ==== Sys2Proof/Word.lean ====
section
/-! DEFINITION. The word types of the core (spec 00 R6, R8; 10 R20; 20 R50). -/

namespace Sys2Proof

/-- A memory cell, a general register, a timer, an immediate `kk`: 8 bits, unsigned (00 R6). -/
abbrev Byte := BitVec 8

/-- An instruction word, `pc`, `I`, a stack slot: 16 bits, unsigned (00 R6). -/
abbrev Word := BitVec 16

/-- A memory address, 0x000 to 0xFFF, and the immediate `nnn`: 12 bits (20 R50, 30 R73). -/
abbrev Addr := BitVec 12

/-- The number of a general register, V0 to VF (10 R21). -/
abbrev Reg := Fin 16

end Sys2Proof
end

