-- ==== Sys2Proof/Syntax.lean ====
section
/-! DEFINITION. The instructions: one constructor per row of spec/opcode_table.json, in the table's order
(spec 30 R76). Operands are those of the row's format (30 R72, R73). -/

namespace Sys2Proof

/-- The 34 instructions (30 R76). Register fields `x`, `y` are register numbers, `kk` a byte, `nnn` an address, and
DRW's `n` a row count (30 R74), which an encoding holds in 4 bits (`Instr.wf`). -/
inductive Instr where
  /-- 00E0, clear screen (40 R100). -/
  | cls
  /-- 00EE, return (41 R110). -/
  | ret
  /-- 1nnn, jump (41 R111). -/
  | jpNnn (nnn : Addr)
  /-- 2nnn, call (41 R112). -/
  | call (nnn : Addr)
  /-- 3xkk, skip if equal to immediate (41 R113). -/
  | seVxKk (x : Reg) (kk : Byte)
  /-- 4xkk, skip if not equal to immediate (41 R114). -/
  | sneVxKk (x : Reg) (kk : Byte)
  /-- 5xy0, skip if registers equal (41 R115). -/
  | seVxVy (x y : Reg)
  /-- 6xkk, load immediate (42 R130). -/
  | ldVxKk (x : Reg) (kk : Byte)
  /-- 7xkk, add immediate (42 R131). -/
  | addVxKk (x : Reg) (kk : Byte)
  /-- 8xy0, copy register (42 R132). -/
  | ldVxVy (x y : Reg)
  /-- 8xy1, bitwise OR (42 R133). -/
  | orVxVy (x y : Reg)
  /-- 8xy2, bitwise AND (42 R134). -/
  | andVxVy (x y : Reg)
  /-- 8xy3, bitwise XOR (42 R135). -/
  | xorVxVy (x y : Reg)
  /-- 8xy4, add with carry (42 R136). -/
  | addVxVy (x y : Reg)
  /-- 8xy5, subtract (42 R137). -/
  | subVxVy (x y : Reg)
  /-- 8xy6, shift right; `y` is encoded and not read (42 R138). -/
  | shrVxVy (x y : Reg)
  /-- 8xy7, reverse subtract (42 R139). -/
  | subnVxVy (x y : Reg)
  /-- 8xyE, shift left; `y` is encoded and not read (42 R140). -/
  | shlVxVy (x y : Reg)
  /-- 9xy0, skip if registers not equal (41 R116). -/
  | sneVxVy (x y : Reg)
  /-- Annn, load index (43 R151). -/
  | ldINnn (nnn : Addr)
  /-- Bnnn, jump with offset V0 (41 R117). -/
  | jpV0Nnn (nnn : Addr)
  /-- Cxkk, random byte and immediate (42 R141). -/
  | rnd (x : Reg) (kk : Byte)
  /-- Dxyn, draw sprite (40 R101). -/
  | drw (x y : Reg) (n : Nat)
  /-- Ex9E, skip if key pressed (44 R171). -/
  | skp (x : Reg)
  /-- ExA1, skip if key not pressed (44 R172). -/
  | sknp (x : Reg)
  /-- Fx07, read delay timer (44 R173). -/
  | ldVxDt (x : Reg)
  /-- Fx0A, wait for a key (44 R174). -/
  | ldVxK (x : Reg)
  /-- Fx15, set delay timer (44 R175). -/
  | ldDtVx (x : Reg)
  /-- Fx18, set sound timer (44 R176). -/
  | ldStVx (x : Reg)
  /-- Fx1E, add register to index (43 R152). -/
  | addIVx (x : Reg)
  /-- Fx29, font character address (43 R153). -/
  | ldFVx (x : Reg)
  /-- Fx33, store decimal digits (43 R154). -/
  | ldBVx (x : Reg)
  /-- Fx55, store registers V0 to Vx (43 R155). -/
  | ldMiVx (x : Reg)
  /-- Fx65, load registers V0 to Vx (43 R156). -/
  | ldVxMi (x : Reg)
deriving DecidableEq, Repr

end Sys2Proof
end

