-- ==== Sys2Proof/Decode.lean ====
section
/-! DEFINITION. The decoder, from words and from bytes, the encoder, the opcode table's rows, and the assembler
spelling (spec 30 R70 to R91). Decoding is two-level, as 30 R75 has it: first the family, then, in the families that
hold more or less than one instruction, the rest of the word. -/

namespace Sys2Proof

/-! ## Fields of an instruction word (30 R73) -/

/-- `family = w[15:12]`. -/
def fieldFamily (w : Word) : BitVec 4 := w.extractLsb' 12 4
/-- `x = w[11:8]`, a register number. -/
def fieldX (w : Word) : Reg := (w.extractLsb' 8 4).toFin
/-- `y = w[7:4]`, a register number. -/
def fieldY (w : Word) : Reg := (w.extractLsb' 4 4).toFin
/-- `n = w[3:0]`. -/
def fieldN (w : Word) : BitVec 4 := w.extractLsb' 0 4
/-- `kk = w[7:0]`. -/
def fieldKk (w : Word) : Byte := w.extractLsb' 0 8
/-- `nnn = w[11:0]`. -/
def fieldNnn (w : Word) : Addr := w.extractLsb' 0 12

/-! ## Decoding -/

/-- Why bytes are no instruction: one name for each family of 30 R82's table of unknown words, and one for a list of
bytes that holds no whole word (a fetch always reads two bytes, 30 R79). An unknown word is no fault and no refusal:
the step runs it as a no-op with a diagnostic (30 R82), see `unknownWord`. -/
inductive Reject where
  /-- `0x0000` to `0x0FFF` except `0x00E0` and `0x00EE` (30 R83). -/
  | family0
  /-- `0x5xyN` with `N ≠ 0` (30 R84). -/
  | family5
  /-- `0x8xyN` with `N` in 8 to D or F (30 R85). -/
  | family8
  /-- `0x9xyN` with `N ≠ 0` (30 R84). -/
  | family9
  /-- `0xExkk` with `kk` not 9E or A1 (30 R86). -/
  | familyE
  /-- `0xFxkk` with `kk` not one of the nine of 30 R87. -/
  | familyF
  /-- Fewer than two bytes (30 R70). -/
  | truncated
deriving DecidableEq, Repr

/-- Family 0 is matched on the full word (30 R83). -/
def decodeFamily0 (w : Word) : Except Reject Instr :=
  if w = 0x00E0 then .ok .cls else if w = 0x00EE then .ok .ret else .error .family0

/-- Family 8 switches on `n` (30 R85). -/
def decodeFamily8 (w : Word) : Except Reject Instr :=
  match fieldN w with
  | 0x0#4 => .ok (.ldVxVy (fieldX w) (fieldY w))
  | 0x1#4 => .ok (.orVxVy (fieldX w) (fieldY w))
  | 0x2#4 => .ok (.andVxVy (fieldX w) (fieldY w))
  | 0x3#4 => .ok (.xorVxVy (fieldX w) (fieldY w))
  | 0x4#4 => .ok (.addVxVy (fieldX w) (fieldY w))
  | 0x5#4 => .ok (.subVxVy (fieldX w) (fieldY w))
  | 0x6#4 => .ok (.shrVxVy (fieldX w) (fieldY w))
  | 0x7#4 => .ok (.subnVxVy (fieldX w) (fieldY w))
  | 0xE#4 => .ok (.shlVxVy (fieldX w) (fieldY w))
  | _ => .error .family8

/-- Family E switches on `kk` (30 R86). -/
def decodeFamilyE (w : Word) : Except Reject Instr :=
  match fieldKk w with
  | 0x9E#8 => .ok (.skp (fieldX w))
  | 0xA1#8 => .ok (.sknp (fieldX w))
  | _ => .error .familyE

/-- Family F switches on `kk` (30 R87). -/
def decodeFamilyF (w : Word) : Except Reject Instr :=
  match fieldKk w with
  | 0x07#8 => .ok (.ldVxDt (fieldX w))
  | 0x0A#8 => .ok (.ldVxK (fieldX w))
  | 0x15#8 => .ok (.ldDtVx (fieldX w))
  | 0x18#8 => .ok (.ldStVx (fieldX w))
  | 0x1E#8 => .ok (.addIVx (fieldX w))
  | 0x29#8 => .ok (.ldFVx (fieldX w))
  | 0x33#8 => .ok (.ldBVx (fieldX w))
  | 0x55#8 => .ok (.ldMiVx (fieldX w))
  | 0x65#8 => .ok (.ldVxMi (fieldX w))
  | _ => .error .familyF

/-- The instruction a word is, or the name of its rejection (30 R75, R81, R82). Exact: every bit a row fixes must
match. The last arm is family F, the one value of four bits the others leave. -/
def decode (w : Word) : Except Reject Instr :=
  match fieldFamily w with
  | 0x0#4 => decodeFamily0 w
  | 0x1#4 => .ok (.jpNnn (fieldNnn w))
  | 0x2#4 => .ok (.call (fieldNnn w))
  | 0x3#4 => .ok (.seVxKk (fieldX w) (fieldKk w))
  | 0x4#4 => .ok (.sneVxKk (fieldX w) (fieldKk w))
  | 0x5#4 => if fieldN w = 0 then .ok (.seVxVy (fieldX w) (fieldY w)) else .error .family5
  | 0x6#4 => .ok (.ldVxKk (fieldX w) (fieldKk w))
  | 0x7#4 => .ok (.addVxKk (fieldX w) (fieldKk w))
  | 0x8#4 => decodeFamily8 w
  | 0x9#4 => if fieldN w = 0 then .ok (.sneVxVy (fieldX w) (fieldY w)) else .error .family9
  | 0xA#4 => .ok (.ldINnn (fieldNnn w))
  | 0xB#4 => .ok (.jpV0Nnn (fieldNnn w))
  | 0xC#4 => .ok (.rnd (fieldX w) (fieldKk w))
  | 0xD#4 => .ok (.drw (fieldX w) (fieldY w) (fieldN w).toNat)
  | 0xE#4 => decodeFamilyE w
  | _ => decodeFamilyF w

/-- The word of two bytes, `(hi << 8) | lo`, the byte at the lower address in bits 15 to 8 (20 R53). -/
def wordOfBytes (hi lo : Byte) : Word := hi.setWidth 16 <<< 8 ||| lo.setWidth 16

/-- The two bytes of a word as memory holds them, the high byte first (20 R53). -/
def wordBytes (w : Word) : List Byte := [w.extractLsb' 8 8, w.extractLsb' 0 8]

/-- The instruction at the head of a list of bytes and the bytes after it; a decoder always consumes exactly two
bytes (30 R71). -/
def decodeBytes : List Byte → Except Reject (Instr × List Byte)
  | hi :: lo :: rest =>
    match decode (wordOfBytes hi lo) with
    | .ok i => .ok (i, rest)
    | .error e => .error e
  | _ => .error .truncated

/-- The word whose bits spec/opcode_table.json numbers as `w`: every bit from `nbits` on is 0, and an instruction of
this hardware has 16 bits. -/
def tableWord (nbits w : Nat) : Word := BitVec.ofNat 16 (w % 2 ^ nbits)

/-- What the decoder reads from the bytes of a word of the table (the host's entry; log entry 16). -/
def decodeTableWord (nbits w : Nat) : Option Instr :=
  match decodeBytes (wordBytes (tableWord nbits w)) with
  | .ok (i, _) => some i
  | .error _ => none

/-! ## Encoding (30 R72, R76) -/

/-- Format NNN: family and address. -/
def encodeNnn (family : BitVec 4) (nnn : Addr) : Word := family.setWidth 16 <<< 12 ||| nnn.setWidth 16
/-- Format XKK: family, register, byte. Format X is the same with a fixed low byte. -/
def encodeXKk (family : BitVec 4) (x : Reg) (kk : Byte) : Word :=
  family.setWidth 16 <<< 12 ||| (BitVec.ofFin (w := 4) x).setWidth 16 <<< 8 ||| kk.setWidth 16
/-- Format XYN: family, two registers, nibble. Format XY is the same with a fixed low nibble. -/
def encodeXyN (family : BitVec 4) (x y : Reg) (n : BitVec 4) : Word :=
  family.setWidth 16 <<< 12 ||| (BitVec.ofFin (w := 4) x).setWidth 16 <<< 8 |||
    (BitVec.ofFin (w := 4) y).setWidth 16 <<< 4 ||| n.setWidth 16

/-- The word of a well-formed instruction (30 R76). -/
def encode : Instr → Word
  | .cls => 0x00E0
  | .ret => 0x00EE
  | .jpNnn nnn => encodeNnn 0x1 nnn
  | .call nnn => encodeNnn 0x2 nnn
  | .seVxKk x kk => encodeXKk 0x3 x kk
  | .sneVxKk x kk => encodeXKk 0x4 x kk
  | .seVxVy x y => encodeXyN 0x5 x y 0x0
  | .ldVxKk x kk => encodeXKk 0x6 x kk
  | .addVxKk x kk => encodeXKk 0x7 x kk
  | .ldVxVy x y => encodeXyN 0x8 x y 0x0
  | .orVxVy x y => encodeXyN 0x8 x y 0x1
  | .andVxVy x y => encodeXyN 0x8 x y 0x2
  | .xorVxVy x y => encodeXyN 0x8 x y 0x3
  | .addVxVy x y => encodeXyN 0x8 x y 0x4
  | .subVxVy x y => encodeXyN 0x8 x y 0x5
  | .shrVxVy x y => encodeXyN 0x8 x y 0x6
  | .subnVxVy x y => encodeXyN 0x8 x y 0x7
  | .shlVxVy x y => encodeXyN 0x8 x y 0xE
  | .sneVxVy x y => encodeXyN 0x9 x y 0x0
  | .ldINnn nnn => encodeNnn 0xA nnn
  | .jpV0Nnn nnn => encodeNnn 0xB nnn
  | .rnd x kk => encodeXKk 0xC x kk
  | .drw x y n => encodeXyN 0xD x y (BitVec.ofNat 4 n)
  | .skp x => encodeXKk 0xE x 0x9E
  | .sknp x => encodeXKk 0xE x 0xA1
  | .ldVxDt x => encodeXKk 0xF x 0x07
  | .ldVxK x => encodeXKk 0xF x 0x0A
  | .ldDtVx x => encodeXKk 0xF x 0x15
  | .ldStVx x => encodeXKk 0xF x 0x18
  | .addIVx x => encodeXKk 0xF x 0x1E
  | .ldFVx x => encodeXKk 0xF x 0x29
  | .ldBVx x => encodeXKk 0xF x 0x33
  | .ldMiVx x => encodeXKk 0xF x 0x55
  | .ldVxMi x => encodeXKk 0xF x 0x65

/-- The bytes of an instruction as memory holds them. -/
def encodeBytes (i : Instr) : List Byte := wordBytes (encode i)

/-! ## The opcode table (30 R76) -/

/-- One row of the opcode table: its mnemonic in spec/opcode_table.json, its mask and its match. -/
structure Row where
  mnemonic : String
  mask : Word
  bits : Word
deriving DecidableEq, Repr

/-- A word selects a row exactly when its masked bits are the row's (30 R76). -/
def Row.selects (r : Row) (w : Word) : Bool := decide (w &&& r.mask = r.bits)

/-- Some bit is fixed by both rows, to different values, so that no word can select both (30 R76). -/
def Row.disjoint (r q : Row) : Bool := decide (r.mask &&& q.mask &&& (r.bits ^^^ q.bits) ≠ 0)

/-- The row an instruction belongs to, as the table gives it (30 R76). -/
def Instr.row : Instr → Row
  | .cls => ⟨"CLS", 0xFFFF, 0x00E0⟩
  | .ret => ⟨"RET", 0xFFFF, 0x00EE⟩
  | .jpNnn _ => ⟨"JP_NNN", 0xF000, 0x1000⟩
  | .call _ => ⟨"CALL", 0xF000, 0x2000⟩
  | .seVxKk _ _ => ⟨"SE_VX_KK", 0xF000, 0x3000⟩
  | .sneVxKk _ _ => ⟨"SNE_VX_KK", 0xF000, 0x4000⟩
  | .seVxVy _ _ => ⟨"SE_VX_VY", 0xF00F, 0x5000⟩
  | .ldVxKk _ _ => ⟨"LD_VX_KK", 0xF000, 0x6000⟩
  | .addVxKk _ _ => ⟨"ADD_VX_KK", 0xF000, 0x7000⟩
  | .ldVxVy _ _ => ⟨"LD_VX_VY", 0xF00F, 0x8000⟩
  | .orVxVy _ _ => ⟨"OR", 0xF00F, 0x8001⟩
  | .andVxVy _ _ => ⟨"AND", 0xF00F, 0x8002⟩
  | .xorVxVy _ _ => ⟨"XOR", 0xF00F, 0x8003⟩
  | .addVxVy _ _ => ⟨"ADD_VX_VY", 0xF00F, 0x8004⟩
  | .subVxVy _ _ => ⟨"SUB", 0xF00F, 0x8005⟩
  | .shrVxVy _ _ => ⟨"SHR", 0xF00F, 0x8006⟩
  | .subnVxVy _ _ => ⟨"SUBN", 0xF00F, 0x8007⟩
  | .shlVxVy _ _ => ⟨"SHL", 0xF00F, 0x800E⟩
  | .sneVxVy _ _ => ⟨"SNE_VX_VY", 0xF00F, 0x9000⟩
  | .ldINnn _ => ⟨"LD_I_NNN", 0xF000, 0xA000⟩
  | .jpV0Nnn _ => ⟨"JP_V0_NNN", 0xF000, 0xB000⟩
  | .rnd _ _ => ⟨"RND", 0xF000, 0xC000⟩
  | .drw _ _ _ => ⟨"DRW", 0xF000, 0xD000⟩
  | .skp _ => ⟨"SKP", 0xF0FF, 0xE09E⟩
  | .sknp _ => ⟨"SKNP", 0xF0FF, 0xE0A1⟩
  | .ldVxDt _ => ⟨"LD_VX_DT", 0xF0FF, 0xF007⟩
  | .ldVxK _ => ⟨"LD_VX_K", 0xF0FF, 0xF00A⟩
  | .ldDtVx _ => ⟨"LD_DT_VX", 0xF0FF, 0xF015⟩
  | .ldStVx _ => ⟨"LD_ST_VX", 0xF0FF, 0xF018⟩
  | .addIVx _ => ⟨"ADD_I_VX", 0xF0FF, 0xF01E⟩
  | .ldFVx _ => ⟨"LD_F_VX", 0xF0FF, 0xF029⟩
  | .ldBVx _ => ⟨"LD_B_VX", 0xF0FF, 0xF033⟩
  | .ldMiVx _ => ⟨"LD_MI_VX", 0xF0FF, 0xF055⟩
  | .ldVxMi _ => ⟨"LD_VX_MI", 0xF0FF, 0xF065⟩

/-- The 34 rows in the table's order (30 R76). -/
def opcodeRows : List Row :=
  [(Instr.cls).row, (Instr.ret).row, (Instr.jpNnn 0).row, (Instr.call 0).row, (Instr.seVxKk 0 0).row, (Instr.sneVxKk 0 0).row] ++
  [(Instr.seVxVy 0 0).row, (Instr.ldVxKk 0 0).row, (Instr.addVxKk 0 0).row, (Instr.ldVxVy 0 0).row, (Instr.orVxVy 0 0).row, (Instr.andVxVy 0 0).row] ++
  [(Instr.xorVxVy 0 0).row, (Instr.addVxVy 0 0).row, (Instr.subVxVy 0 0).row, (Instr.shrVxVy 0 0).row, (Instr.subnVxVy 0 0).row, (Instr.shlVxVy 0 0).row] ++
  [(Instr.sneVxVy 0 0).row, (Instr.ldINnn 0).row, (Instr.jpV0Nnn 0).row, (Instr.rnd 0 0).row, (Instr.drw 0 0 0).row, (Instr.skp 0).row] ++
  [(Instr.sknp 0).row, (Instr.ldVxDt 0).row, (Instr.ldVxK 0).row, (Instr.ldDtVx 0).row, (Instr.ldStVx 0).row, (Instr.addIVx 0).row] ++
  [(Instr.ldFVx 0).row, (Instr.ldBVx 0).row, (Instr.ldMiVx 0).row, (Instr.ldVxMi 0).row]

/-! ## Assembler spelling (30 R76, R77; log entry 15) -/

/-- A hexadecimal digit, capitals. -/
def hexDigit (n : Nat) : Char := if n < 10 then Char.ofNat (48 + n) else Char.ofNat (55 + n)

/-- `n` in `digits` hexadecimal digits after `0x`. -/
def hexLiteral (digits n : Nat) : String :=
  "0x" ++ String.ofList ((List.range digits).reverse.map fun k => hexDigit (n / 16 ^ k % 16))

/-- `V0` to `VF`. -/
def regName (x : Reg) : String := "V" ++ String.ofList [hexDigit x.val]

/-- The one spelling of an instruction in the syntax column of 30 R76 (30 R77, R91). -/
def Instr.asm : Instr → String
  | .cls => "CLS"
  | .ret => "RET"
  | .jpNnn nnn => "JP " ++ hexLiteral 3 nnn.toNat
  | .call nnn => "CALL " ++ hexLiteral 3 nnn.toNat
  | .seVxKk x kk => "SE " ++ regName x ++ ", " ++ hexLiteral 2 kk.toNat
  | .sneVxKk x kk => "SNE " ++ regName x ++ ", " ++ hexLiteral 2 kk.toNat
  | .seVxVy x y => "SE " ++ regName x ++ ", " ++ regName y
  | .ldVxKk x kk => "LD " ++ regName x ++ ", " ++ hexLiteral 2 kk.toNat
  | .addVxKk x kk => "ADD " ++ regName x ++ ", " ++ hexLiteral 2 kk.toNat
  | .ldVxVy x y => "LD " ++ regName x ++ ", " ++ regName y
  | .orVxVy x y => "OR " ++ regName x ++ ", " ++ regName y
  | .andVxVy x y => "AND " ++ regName x ++ ", " ++ regName y
  | .xorVxVy x y => "XOR " ++ regName x ++ ", " ++ regName y
  | .addVxVy x y => "ADD " ++ regName x ++ ", " ++ regName y
  | .subVxVy x y => "SUB " ++ regName x ++ ", " ++ regName y
  | .shrVxVy x y => "SHR " ++ regName x ++ ", " ++ regName y
  | .subnVxVy x y => "SUBN " ++ regName x ++ ", " ++ regName y
  | .shlVxVy x y => "SHL " ++ regName x ++ ", " ++ regName y
  | .sneVxVy x y => "SNE " ++ regName x ++ ", " ++ regName y
  | .ldINnn nnn => "LD I, " ++ hexLiteral 3 nnn.toNat
  | .jpV0Nnn nnn => "JP V0, " ++ hexLiteral 3 nnn.toNat
  | .rnd x kk => "RND " ++ regName x ++ ", " ++ hexLiteral 2 kk.toNat
  | .drw x y n => "DRW " ++ regName x ++ ", " ++ regName y ++ ", " ++ toString n
  | .skp x => "SKP " ++ regName x
  | .sknp x => "SKNP " ++ regName x
  | .ldVxDt x => "LD " ++ regName x ++ ", DT"
  | .ldVxK x => "LD " ++ regName x ++ ", K"
  | .ldDtVx x => "LD DT, " ++ regName x
  | .ldStVx x => "LD ST, " ++ regName x
  | .addIVx x => "ADD I, " ++ regName x
  | .ldFVx x => "LD F, " ++ regName x
  | .ldBVx x => "LD B, " ++ regName x
  | .ldMiVx x => "LD [I], " ++ regName x
  | .ldVxMi x => "LD " ++ regName x ++ ", [I]"

end Sys2Proof
end

