-- ==== Sys2Proof/Machine/Flags.lean ====
section
/-! DEFINITION. The values written to VF, the only flag (spec 10 R22, R37; 42 R142). -/

namespace Sys2Proof.Machine

/-- A condition as the flag's byte: 1 or 0. -/
def flagByte (b : Bool) : Byte := if b then 1 else 0

/-- Carry out of an 8-bit add: the 9-bit sum exceeds 255 (42 R136). -/
def carryFlag (a b : Byte) : Byte := flagByte (decide (a.toNat + b.toNat > 255))

/-- The strictly-greater flag of a subtraction `a - b`; equal operands give 0 (42 R137, R139). -/
def greaterFlag (a b : Byte) : Byte := flagByte (decide (a.toNat > b.toNat))

/-- The bit a right shift moves out, bit 0 (42 R138). -/
def lowBitFlag (a : Byte) : Byte := a &&& 1

/-- The bit a left shift moves out, bit 7 (42 R140). -/
def highBitFlag (a : Byte) : Byte := flagByte (decide (a &&& 0x80 ≠ 0))

end Sys2Proof.Machine
end

