-- ==== Sys2Proof/Config.lean ====
section
/-! DEFINITION. The block's two parameters (spec 00 R7) and its one free input, the random byte (60 R204).
The DEFAULT of each parameter stands in Machine/Params.lean. -/

namespace Sys2Proof

/-- The one mechanism that decrements the timers (00 R7, 60 R212 to R214). -/
inductive TimerSource where
  /-- The timer phase ends every step that neither faults nor is halted (60 R212). -/
  | perStep
  /-- The host's TICK action runs the timer phase between steps (60 R213). -/
  | externalTick
deriving DecidableEq, Repr

/-- What a block is built with (00 R7). A model takes both as arguments; `exec` and `step` have the host's form, so
the arguments stand in `State.params`, which no step and no host action changes. -/
structure Params where
  timerSource : TimerSource
  /-- The 80 bytes that reset writes at addresses 0 to 79 (70 R232). -/
  font : Vector Byte 80
deriving DecidableEq, Repr

/-- The random bytes of the RAND port (60 R204, 42 R141, D15): the k-th byte drawn in a run, for every k. A FREE
VALUE: it has no body, so a claim about it holds for every sequence of bytes. Assumption log entry 3; safe. -/
opaque Config.randByte : Nat → Byte

end Sys2Proof
end

