-- ==== Sys2Proof/Machine/Params.lean ====
section
/-! DEFINITION. The default of each of the block's two parameters (spec 00 R7), which `State.reset` takes, and what a
byte of memory that nothing has written reads as. -/

namespace Sys2Proof.Machine

/-- The default of `TIMER_SOURCE` (00 R7, D1). Assumption log entry 2. -/
def defaultTimerSource : TimerSource := .perStep

/-- The default of `FONT`: the table of spec 93 section 3, glyph `d` at `5*d` to `5*d + 4`. The source gives no byte
of it; the spec offers this table as the default, from general knowledge. PRESUMED, unsafe: assumption log entry 1. -/
def defaultFont : Vector Byte 80 :=
  (#v[0xF0, 0x90, 0x90, 0x90, 0xF0,  0x20, 0x60, 0x20, 0x20, 0x70,  0xF0, 0x10, 0xF0, 0x80, 0xF0,
      0xF0, 0x10, 0xF0, 0x10, 0xF0,  0x90, 0x90, 0xF0, 0x10, 0x10,  0xF0, 0x80, 0xF0, 0x10, 0xF0,
      0xF0, 0x80, 0xF0, 0x90, 0xF0,  0xF0, 0x10, 0x20, 0x40, 0x40] : Vector Byte 40) ++
  (#v[0xF0, 0x90, 0xF0, 0x90, 0xF0,  0xF0, 0x90, 0xF0, 0x10, 0xF0,  0xF0, 0x90, 0xF0, 0x90, 0x90,
      0xE0, 0x90, 0xE0, 0x90, 0xE0,  0xF0, 0x80, 0x80, 0x80, 0xF0,  0xE0, 0x90, 0x90, 0x90, 0xE0,
      0xF0, 0x80, 0xF0, 0x80, 0xF0,  0xF0, 0x80, 0xF0, 0x80, 0x80] : Vector Byte 40)

/-- The parameters of the block that `State.reset` is the reset of. -/
def defaultParams : Params := ⟨defaultTimerSource, defaultFont⟩

/-- What an address that memory does not list reads as: its content in `State.reset` (10 R39, 20 R51), the default
font below 80 and 0 from 80 on. A block with another FONT lists the bytes that differ (`resetWith`). -/
def unlistedByte (a : Nat) : Byte := defaultFont[a]?.getD 0

end Sys2Proof.Machine
end

