-- ==== Sys2Proof/Machine/State.lean ====
section
/-! DEFINITION. The state of the core (spec 10 R20 to R40), what a step reports (60 R193, R196), and the state after
reset (10 R39, 70 R230). Plain data: INVENTORY.md lists every field with its rule. -/

namespace Sys2Proof.Machine

/-- The reasons `step` could STOP the machine as a `Host.Outcome.fault`: there are none. Each of the core's three
faults (60 R190) has an entry that the spec describes (60 R193), so a step that faults answers a NEXT state, with
`HALTED` set (`State.takeFault`); and every 12-bit address is a cell of memory (20 R50, R55). Assumption log entry 4;
safe. -/
inductive Fault
deriving DecidableEq, Repr

/-- The reasons an instruction has no meaning. -/
inductive Refusal where
  /-- Raised by an arm of `exec` whose instruction has no meaning yet, with its mnemonic; no arm raises it. Safe. -/
  | notModelled (mnemonic : String)
deriving DecidableEq, Repr

/-- The values of `FAULT_CODE` (10 R35, 60 R190), in the order of their codes 0 to 3. -/
inductive FaultCode where
  | none
  | fetchOutOfRange
  | stackOverflow
  | stackUnderflow
deriving DecidableEq, Repr

/-- What the last STEP returned to the host: the fault it raised, or its set of diagnostics (60 R193, R196, R201).
Assumption log entry 5. -/
structure Report where
  fault : FaultCode
  unknownInstruction : Bool
  addressWrapped : Bool
deriving DecidableEq, Repr

/-- Nothing reported: most steps (60 R196), and every step of a halted block (60 R194). -/
def Report.empty : Report := ⟨.none, false, false⟩

/-- Memory: the cells that differ from `unlistedByte`, addresses strictly rising (`Memory.wf`). -/
abbrev Memory := List Host.Cell

/-- The framebuffer: 32 rows, top to bottom, of 64 cells, left to right, lit = true (10 R33). `Screen.cell` numbers
the cells 0 to 2047 as the spec does. -/
abbrev Screen := Vector (Vector Bool 64) 32

/-- A framebuffer with every cell unlit. -/
def Screen.blank : Screen := Vector.replicate 32 (Vector.replicate 64 false)

structure State where
  /-- The block's parameters; no step and no host action changes them (00 R7). -/
  params : Params
  /-- `M`, 4096 cells (10 R34). -/
  mem : Memory
  /-- `V0` to `VF` (10 R21); VF is also the flag (10 R22). -/
  v : Vector Byte 16
  /-- `I` (10 R27). -/
  index : Word
  /-- The program counter (10 R24). -/
  pc : Word
  /-- `STACK[0]` to `STACK[15]` (10 R28). -/
  stack : Vector Word 16
  /-- `SP`, the next free slot, 0 to 16 (10 R29). -/
  sp : Fin 17
  /-- The delay timer (10 R30). -/
  dt : Byte
  /-- The sound timer (10 R31). -/
  st : Byte
  /-- The keypad, true = pressed, as the host left it (10 R32). -/
  key : Vector Bool 16
  /-- The framebuffer (10 R33). -/
  fb : Screen
  /-- `HALTED` (10 R35). -/
  halted : Bool
  /-- `FAULT_CODE` (10 R35). -/
  faultCode : FaultCode
  /-- `FAULT_PC` (10 R35). -/
  faultPc : Word
  /-- `FAULT_WORD` (10 R35). -/
  faultWord : Word
  /-- The result of the last STEP, the `DIAG` port among it (60 R201). -/
  report : Report
  /-- The model's own: how many random bytes have been drawn (log entry 3). -/
  draws : Nat
deriving DecidableEq, Repr

/-- The machine right after reset (10 R39, 70 R230, R231), with the default parameters: memory at its reset contents
(nothing listed), `pc` at 0x200, everything else zero, unlit, not pressed, not halted. -/
def State.reset : State where
  params := defaultParams
  mem := []
  v := Vector.replicate 16 0
  index := 0
  pc := 0x200
  stack := Vector.replicate 16 0
  sp := 0
  dt := 0
  st := 0
  key := Vector.replicate 16 false
  fb := Screen.blank
  halted := false
  faultCode := .none
  faultPc := 0
  faultWord := 0
  report := .empty
  draws := 0

end Sys2Proof.Machine
end

