-- ==== Sys2Proof/Machine/Memory.lean ====
section
/-! DEFINITION. Memory: one read, one write, each of one byte (spec 00 R10, 20 R50, R54), over a list of cells in one
canonical form. An address has 12 bits, so every access is to a cell that exists (20 R50). -/

namespace Sys2Proof.Machine

/-- The byte at address `a` of a list of cells, an unlisted address reading as `unlistedByte`. -/
def Memory.lookup (a : Nat) : Memory → Byte
  | [] => unlistedByte a
  | (k, b) :: rest => if k = a then b else Memory.lookup a rest

/-- List `b` at address `a`, keeping the addresses rising. -/
def Memory.insert (a : Nat) (b : Byte) : Memory → Memory
  | [] => [(a, b)]
  | (k, c) :: rest =>
    if a < k then (a, b) :: (k, c) :: rest else if a = k then (a, b) :: rest else (k, c) :: Memory.insert a b rest

/-- List nothing at address `a`. -/
def Memory.erase (a : Nat) : Memory → Memory
  | [] => []
  | (k, c) :: rest => if a = k then rest else (k, c) :: Memory.erase a rest

/-- `MemRead(a, 1)` (00 R10). Reading has no side effect (20 R58). -/
def Memory.read (m : Memory) (a : Addr) : Byte := m.lookup a.toNat

/-- `MemWrite(a, 1, b)` (00 R10). Every cell is writable, the font's too (20 R52). Writing what an unlisted address
reads as removes the entry, so that equal memories are equal lists. -/
def Memory.write (m : Memory) (a : Addr) (b : Byte) : Memory :=
  if b = unlistedByte a.toNat then m.erase a.toNat else m.insert a.toNat b

/-- The canonical form: addresses strictly rising and below 4096, and no entry equal to what its address reads as
unlisted. -/
def Memory.wf : Memory → Bool
  | [] => true
  | (k, b) :: rest =>
    decide (k < 4096) && decide (b ≠ unlistedByte k) && rest.all (fun c => decide (k < c.1)) && Memory.wf rest

end Sys2Proof.Machine
end

