-- ==== Sys2Proof/Machine/Operands.lean ====
section
/-! DEFINITION. The operand forms: how a handler turns fields, registers and `I` into values and addresses (spec 30
R74, 43 R150). -/

namespace Sys2Proof.Machine

/-- `zext_16(nnn)`, written to `pc` or `I` (30 R74). -/
def addrWord (nnn : Addr) : Word := nnn.setWidth 16

/-- `zext_16(b)` of a register's byte (30 R74, 43 R152). -/
def byteWord (b : Byte) : Word := b.setWidth 16

/-- `EA(I, k) = (I + k) mod 4096`, the one data addressing mode (20 R55, 43 R150). -/
def dataAddr (base : Word) (k : Nat) : Addr := BitVec.ofNat 12 (base.toNat + k)

/-- Whether one of the `count` accesses at `I`, `I + 1`, … has `I + k > 0xFFF`: the condition of ADDRESS_WRAPPED
(20 R55, 60 R196). -/
def wraps (base : Word) (count : Nat) : Bool := (List.range count).any fun k => decide (base.toNat + k > 0xFFF)

/-- The key that `Ex9E` and `ExA1` test: the register modulo 16 (44 R170). -/
def keyIndex (b : Byte) : Fin 16 := ⟨b.toNat % 16, Nat.mod_lt _ (by decide)⟩

/-- The lowest pressed key, if any (44 R174). -/
def firstKey (key : Vector Bool 16) : Option (Fin 16) := (List.finRange 16).find? fun k => key[k]

/-- The address of the glyph a register names, five bytes a glyph, not masked (43 R153). -/
def glyphAddr (b : Byte) : Word := byteWord b * 5

/-- The decimal digits of a byte: hundreds, tens, ones (43 R154). -/
def decimalDigits (b : Byte) : List Byte :=
  [BitVec.ofNat 8 (b.toNat / 100), BitVec.ofNat 8 (b.toNat / 10 % 10), BitVec.ofNat 8 (b.toNat % 10)]

end Sys2Proof.Machine
end

