-- ==== Sys2Proof/Machine/Ops.lean ====
section
/-! DEFINITION. The named operations over State: the one place each piece of state is read or written, taking a fault
and leaving one, the parts of a step around a handler (spec 30 R78, R79, R80, R89; 60 R193 to R196, R211). -/

namespace Sys2Proof.Machine

/-- What a handler answers. -/
abbrev Result := Host.Outcome State Fault Refusal

/-! ## Registers and the other pieces of state -/

/-- `V[x]` (00 R9, 10 R21). -/
def State.getV (s : State) (x : Reg) : Byte := s.v[x]
/-- `V[x] <- b`. No register is hardwired (10 R21). -/
def State.setV (s : State) (x : Reg) (b : Byte) : State := { s with v := s.v.set x.val b }
/-- All sixteen registers at once. -/
def State.setRegs (s : State) (v : Vector Byte 16) : State := { s with v := v }
/-- `I <- w` (10 R27). -/
def State.setIndex (s : State) (w : Word) : State := { s with index := w }
/-- `pc <- w`; no target is checked (41 R118). -/
def State.setPc (s : State) (w : Word) : State := { s with pc := w }
/-- The memory after stores. -/
def State.setMem (s : State) (m : Memory) : State := { s with mem := m }
/-- The return stack and its pointer (10 R28, R29). -/
def State.setCalls (s : State) (stack : Vector Word 16) (sp : Fin 17) : State := { s with stack := stack, sp := sp }
/-- The delay timer and the sound timer (10 R30, R31). -/
def State.setTimers (s : State) (dt st : Byte) : State := { s with dt := dt, st := st }
/-- The keypad; only the host writes it (10 R32). -/
def State.setKeys (s : State) (key : Vector Bool 16) : State := { s with key := key }
/-- The framebuffer (10 R33). -/
def State.setScreen (s : State) (fb : Screen) : State := { s with fb := fb }
/-- The four fault status registers, written together (10 R35). -/
def State.setFaultStatus (s : State) (halted : Bool) (code : FaultCode) (pc word : Word) : State :=
  { s with halted := halted, faultCode := code, faultPc := pc, faultWord := word }
/-- What the step reports. -/
def State.setReport (s : State) (r : Report) : State := { s with report := r }
/-- How many random bytes have been drawn. -/
def State.setDraws (s : State) (n : Nat) : State := { s with draws := n }

/-! ## Sequences of bytes in memory (20 R54) -/

/-- Store bytes at `EA(base, k)`, `EA(base, k + 1)`, … in ascending order. -/
def storeBytes (base : Word) : Nat → List Byte → Memory → Memory
  | _, [], m => m
  | k, b :: bs, m => storeBytes base (k + 1) bs (m.write (dataAddr base k) b)

/-- The bytes at `EA(base, 0)`, …, `EA(base, count - 1)`. -/
def loadBytes (m : Memory) (base : Word) (count : Nat) : List Byte :=
  (List.range count).map fun k => m.read (dataAddr base k)

/-- For `r` in 0 to `x`: `V[r] <- M[EA(base, r)]` (43 R156). -/
def loadRegs (m : Memory) (base : Word) (x : Reg) (v : Vector Byte 16) : Vector Byte 16 :=
  ((List.finRange 16).take (x.val + 1)).foldl (fun v (r : Reg) => v.set r.val (m.read (dataAddr base r.val))) v

/-! ## Diagnostics (60 R196) -/

/-- `report Diag(ADDRESS_WRAPPED)` if one of `count` data accesses from `I` on wraps; at most once in a step
(20 R55). -/
def State.noteWrap (s : State) (count : Nat) : State :=
  s.setReport { s.report with addressWrapped := s.report.addressWrapped || wraps s.index count }

/-- `Execute` of a word that no row matches: `report Diag(UNKNOWN_INSTRUCTION)` and no other effect (30 R82). -/
def unknownWord (s : State) : State := s.setReport { s.report with unknownInstruction := true }

/-! ## Taking a fault and leaving one -/

/-- `raise Fault(code)` (60 R193): `pc` is the faulting instruction's address `pc0`, the four status registers are
written together, the fault is the step's result, and no other write of the step is kept, since every faulting check
comes before any write of its handler. -/
def State.takeFault (s : State) (code : FaultCode) (pc0 word : Word) : State :=
  ((s.setPc pc0).setFaultStatus true code pc0 word).setReport { s.report with fault := code }

/-- A fault raised by a handler, which runs with `pc = pc0 + 2` (30 R80); the faulting word is the encoding of the
instruction that runs. Assumption log entry 9. -/
def State.takeHandlerFault (s : State) (code : FaultCode) (i : Instr) : State :=
  s.takeFault code (s.pc - 2) (encode i)

/-- The state after RESET of a block built with the given parameters (70 R230, R232): `State.reset` with the block's
FONT at addresses 0 to 79. There is no return from a fault; this is the only way out of the halted state (60 R195). -/
def resetWith (p : Params) : State :=
  (({ State.reset with params := p } : State)).setMem (storeBytes 0 0 p.font.toList [])

/-! ## The parts of a step around a handler (30 R78) -/

/-- A step reports anew: nothing is reported yet (60 R196). -/
def State.clearReport (s : State) : State := s.setReport .empty

/-- The fetch: the big-endian word at `pc`, or nothing when `pc > 0xFFE` (30 R79, 20 R53, R57). `pc` may be odd
(20 R56). -/
def State.fetch (s : State) : Option Word :=
  if s.pc.toNat ≤ 0xFFE then
    some (wordOfBytes (s.mem.read (dataAddr s.pc 0)) (s.mem.read (dataAddr s.pc 1)))
  else none

/-- The step of a block whose `pc` is out of range: FETCH_OUT_OF_RANGE, with no word fetched (30 R79, 60 R190). -/
def fetchFault (s : State) : State := s.clearReport.takeFault .fetchOutOfRange s.pc 0

/-- A step up to its handler: nothing reported, and the advance `pc <- pc0 + 2` (30 R80). -/
def beginStep (s : State) : State := s.clearReport.setPc (s.pc + 2)

/-- One timer counted down, clamped at 0 (60 R211). -/
def countDown (t : Byte) : Byte := if t = 0 then 0 else t - 1

/-- The timer phase (60 R211). -/
def timerPhase (s : State) : State := s.setTimers (countDown s.dt) (countDown s.st)

/-- What follows the handler: the timer phase, unless the step faulted or the timers are the host's (30 R89, 60 R193,
R212, R213). -/
def endStep (s : State) : State :=
  if s.halted then s else
    match s.params.timerSource with
    | .perStep => timerPhase s
    | .externalTick => s

/-- What follows a handler that answered a next state. -/
def finishStep : Result → Result
  | .next s => .next (endStep s)
  | .fault r => .fault r
  | .refused r => .refused r

/-! ## Skips -/

/-- A skip: `pc <- pc + 2` once more if the condition holds (00 R11, 41 R113). -/
def State.skipIf (s : State) (c : Bool) : State := s.setPc (if c then s.pc + 2 else s.pc)

/-! ## Placing an instruction for the host -/

/-- A state that will fetch: a halted block, or one whose `pc` is out of range, is put at 0x200 with its fault status
clear; any other is left as it is. Assumption log entry 17. -/
def State.readyToFetch (s : State) : State :=
  if s.halted || decide (s.pc.toNat > 0xFFE) then (s.setPc 0x200).setFaultStatus false .none 0 0 else s

/-- A word stored where the next step fetches, high byte first. -/
def State.placeWord (s : State) (w : Word) : State :=
  s.readyToFetch.setMem (storeBytes s.readyToFetch.pc 0 (wordBytes w) s.readyToFetch.mem)

end Sys2Proof.Machine
end

