-- ==== Sys2Proof/Machine/Alu.lean ====
section
/-! DEFINITION. Register loads, arithmetic and logic (spec 42 R130 to R142). The statements of a handler run in the
order written, each reading the registers as the one before left them (30 R88): this decides the cases where `x` or
`y` is 15. -/

namespace Sys2Proof.Machine

/-- `LD Vx, kk` (42 R130). -/
def execLdVxKk (x : Reg) (kk : Byte) (s : State) : Result := .next (s.setV x kk)

/-- `ADD Vx, kk` (42 R131): modulo 256, no flag. -/
def execAddVxKk (x : Reg) (kk : Byte) (s : State) : Result := .next (s.setV x (s.getV x + kk))

/-- `LD Vx, Vy` (42 R132). -/
def execLdVxVy (x y : Reg) (s : State) : Result := .next (s.setV x (s.getV y))

/-- `OR Vx, Vy` (42 R133): then VF is 0. -/
def execOrVxVy (x y : Reg) (s : State) : Result := .next ((s.setV x (s.getV x ||| s.getV y)).setV 15 0)

/-- `AND Vx, Vy` (42 R134): then VF is 0. -/
def execAndVxVy (x y : Reg) (s : State) : Result := .next ((s.setV x (s.getV x &&& s.getV y)).setV 15 0)

/-- `XOR Vx, Vy` (42 R135): then VF is 0. -/
def execXorVxVy (x y : Reg) (s : State) : Result := .next ((s.setV x (s.getV x ^^^ s.getV y)).setV 15 0)

/-- `ADD Vx, Vy` (42 R136): the sum is taken before VF is written. -/
def execAddVxVy (x y : Reg) (s : State) : Result :=
  .next ((s.setV 15 (carryFlag (s.getV x) (s.getV y))).setV x (s.getV x + s.getV y))

/-- `SUB Vx, Vy` (42 R137): the flag first; the difference reads VF as just written. -/
def execSubVxVy (x y : Reg) (s : State) : Result :=
  let s1 := s.setV 15 (greaterFlag (s.getV x) (s.getV y))
  .next (s1.setV x (s1.getV x - s1.getV y))

/-- `SHR Vx, Vy` (42 R138): `Vy` is not read; the shift reads VF as just written when `x` is 15. -/
def execShrVxVy (x _y : Reg) (s : State) : Result :=
  let s1 := s.setV 15 (lowBitFlag (s.getV x))
  .next (s1.setV x (s1.getV x >>> 1))

/-- `SUBN Vx, Vy` (42 R139): the flag first; the difference reads VF as just written. -/
def execSubnVxVy (x y : Reg) (s : State) : Result :=
  let s1 := s.setV 15 (greaterFlag (s.getV y) (s.getV x))
  .next (s1.setV x (s1.getV y - s1.getV x))

/-- `SHL Vx, Vy` (42 R140): `Vy` is not read; the shift reads VF as just written when `x` is 15. -/
def execShlVxVy (x _y : Reg) (s : State) : Result :=
  let s1 := s.setV 15 (highBitFlag (s.getV x))
  .next (s1.setV x (s1.getV x <<< 1))

/-- `RND Vx, kk` (42 R141): the step's random byte, a free value, and the mask. -/
def execRnd (x : Reg) (kk : Byte) (s : State) : Result :=
  .next ((s.setV x (Config.randByte s.draws &&& kk)).setDraws (s.draws + 1))

end Sys2Proof.Machine
end

