-- ==== Sys2Proof/Machine/Control.lean ====
section
/-! DEFINITION. Control transfer and conditional skips (spec 41 R110 to R118). A handler runs with `pc = pc0 + 2`
(30 R80). -/

namespace Sys2Proof.Machine

/-- `RET` (41 R110): STACK_UNDERFLOW when `SP = 0`, else the return; the slot keeps its value (10 R28). -/
def execRet (s : State) : Result :=
  if s.sp.val = 0 then .next (s.takeHandlerFault .stackUnderflow .ret)
  else
    .next ((s.setCalls s.stack ⟨s.sp.val - 1, by omega⟩).setPc (s.stack[s.sp.val - 1]'(by omega)))

/-- `JP nnn` (41 R111). -/
def execJpNnn (nnn : Addr) (s : State) : Result := .next (s.setPc (addrWord nnn))

/-- `CALL nnn` (41 R112): STACK_OVERFLOW when `SP = 16`, else push `pc`, the return address, and jump. -/
def execCall (nnn : Addr) (s : State) : Result :=
  if h : s.sp.val < 16 then
    .next ((s.setCalls (s.stack.set s.sp.val s.pc h) ⟨s.sp.val + 1, by omega⟩).setPc (addrWord nnn))
  else .next (s.takeHandlerFault .stackOverflow (.call nnn))

/-- `SE Vx, kk` (41 R113). -/
def execSeVxKk (x : Reg) (kk : Byte) (s : State) : Result := .next (s.skipIf (decide (s.getV x = kk)))

/-- `SNE Vx, kk` (41 R114). -/
def execSneVxKk (x : Reg) (kk : Byte) (s : State) : Result := .next (s.skipIf (decide (s.getV x ≠ kk)))

/-- `SE Vx, Vy` (41 R115). -/
def execSeVxVy (x y : Reg) (s : State) : Result := .next (s.skipIf (decide (s.getV x = s.getV y)))

/-- `SNE Vx, Vy` (41 R116). -/
def execSneVxVy (x y : Reg) (s : State) : Result := .next (s.skipIf (decide (s.getV x ≠ s.getV y)))

/-- `JP V0, nnn` (41 R117): the plain sum, at most 0x10FE, not reduced modulo 4096. -/
def execJpV0Nnn (nnn : Addr) (s : State) : Result := .next (s.setPc (byteWord (s.getV 0) + addrWord nnn))

end Sys2Proof.Machine
end

