-- ==== Sys2Proof/Machine/Display.lean ====
section
/-! DEFINITION. The display instructions (spec 40 R100, R101). A handler runs with `pc = pc0 + 2` (30 R80). -/

namespace Sys2Proof.Machine

/-- Whether the cell at a row and a column is lit; both axes wrap (40 R101). -/
def Screen.lit (fb : Screen) (row col : Nat) : Bool := fb[row % 32][col % 64]

/-- `FB[t] <- FB[t] xor 1` at a row and a column; both axes wrap (40 R101). -/
def Screen.toggle (fb : Screen) (row col : Nat) : Screen :=
  fb.set (row % 32) (fb[row % 32].set (col % 64) (!fb[row % 32][col % 64]))

/-- `FB[t]`: cell `t` is at row `t div 64` and column `t mod 64` (10 R33). -/
def Screen.cell (fb : Screen) (t : Fin 2048) : Bool := fb.lit (t.val / 64) (t.val % 64)

/-- Draw one sprite bit on a cell, keeping whether a set bit has fallen on a lit cell: a clear bit changes nothing
(40 R101). -/
def drawBit (bit : Bool) (row col : Nat) (d : Screen × Bool) : Screen × Bool :=
  if bit then (d.1.toggle row col, d.2 || d.1.lit row col) else d

/-- Draw one sprite byte, most significant bit first (40 R101). -/
def drawRow (b : Byte) (row col : Nat) (d : Screen × Bool) : Screen × Bool :=
  (List.range 8).foldl (fun d c => drawBit (b.getLsbD (7 - c)) row (col + c) d) d

/-- Draw the sprite's bytes, one a row (40 R101). -/
def drawSprite : List Byte → Nat → Nat → Screen × Bool → Screen × Bool
  | [], _, _, d => d
  | b :: bs, row, col, d => drawSprite bs (row + 1) col (drawRow b row col d)

/-- `CLS` (40 R100). -/
def execCls (s : State) : Result := .next (s.setScreen Screen.blank)

/-- `DRW Vx, Vy, n` (40 R101): the coordinates are read before VF is written; VF is the collision. -/
def execDrw (x y : Reg) (n : Nat) (s : State) : Result :=
  let xpos := (s.getV x).toNat % 64
  let ypos := (s.getV y).toNat % 32
  let drawn := drawSprite (loadBytes s.mem s.index n) ypos xpos (s.fb, false)
  .next (((s.setV 15 (flagByte drawn.2)).setScreen drawn.1).noteWrap n)

end Sys2Proof.Machine
end

