-- ==== Sys2Proof/Machine/IndexMemory.lean ====
section
/-! DEFINITION. The index register and memory transfers (spec 43 R150 to R156). No access changes `I` (43 R150). -/

namespace Sys2Proof.Machine

/-- `LD I, nnn` (43 R151). -/
def execLdINnn (nnn : Addr) (s : State) : Result := .next (s.setIndex (addrWord nnn))

/-- `ADD I, Vx` (43 R152): modulo 65536; VF is not written. -/
def execAddIVx (x : Reg) (s : State) : Result := .next (s.setIndex (s.index + byteWord (s.getV x)))

/-- `LD F, Vx` (43 R153). -/
def execLdFVx (x : Reg) (s : State) : Result := .next (s.setIndex (glyphAddr (s.getV x)))

/-- `LD B, Vx` (43 R154). -/
def execLdBVx (x : Reg) (s : State) : Result :=
  .next ((s.setMem (storeBytes s.index 0 (decimalDigits (s.getV x)) s.mem)).noteWrap 3)

/-- `LD [I], Vx` (43 R155): V0 to Vx, inclusive. -/
def execLdMiVx (x : Reg) (s : State) : Result :=
  .next ((s.setMem (storeBytes s.index 0 (s.v.toList.take (x.val + 1)) s.mem)).noteWrap (x.val + 1))

/-- `LD Vx, [I]` (43 R156): V0 to Vx, inclusive. -/
def execLdVxMi (x : Reg) (s : State) : Result :=
  .next ((s.setRegs (loadRegs s.mem s.index x s.v)).noteWrap (x.val + 1))

end Sys2Proof.Machine
end

