-- ==== Sys2Proof/Machine/KeysTimers.lean ====
section
/-! DEFINITION. Keypad and timer instructions (spec 44 R170 to R176). -/

namespace Sys2Proof.Machine

/-- `SKP Vx` (44 R171). -/
def execSkp (x : Reg) (s : State) : Result := .next (s.skipIf s.key[keyIndex (s.getV x)])

/-- `SKNP Vx` (44 R172). -/
def execSknp (x : Reg) (s : State) : Result := .next (s.skipIf (!s.key[keyIndex (s.getV x)]))

/-- `LD Vx, DT` (44 R173). -/
def execLdVxDt (x : Reg) (s : State) : Result := .next (s.setV x s.dt)

/-- `LD Vx, K` (44 R174): the lowest pressed key; with none, `pc` goes back to this instruction. -/
def execLdVxK (x : Reg) (s : State) : Result :=
  match firstKey s.key with
  | some k => .next (s.setV x (BitVec.ofNat 8 k.val))
  | none => .next (s.setPc (s.pc - 2))

/-- `LD DT, Vx` (44 R175). -/
def execLdDtVx (x : Reg) (s : State) : Result := .next (s.setTimers (s.getV x) s.st)

/-- `LD ST, Vx` (44 R176). -/
def execLdStVx (x : Reg) (s : State) : Result := .next (s.setTimers s.dt (s.getV x))

end Sys2Proof.Machine
end

