-- ==== Sys2Proof/Machine/Step.lean ====
section
/-! DEFINITION. One step (spec 30 R78): the halted check, the fetch, the advance, the handler, the timer phase. -/

namespace Sys2Proof.Machine

/-- `Execute(w)`: the handler of the one row that `w` matches, or the unknown-instruction behaviour (30 R81, R82). -/
def execWord (w : Word) (s : State) : Host.Outcome State Fault Refusal :=
  match decode w with
  | .ok i => exec i s
  | .error _ => .next (unknownWord s)

/-- One call of `step()` (30 R78). The checks come in the order of 60 R198. A halted block reports nothing and
changes nothing (60 R194). -/
def step (s : State) : Host.Outcome State Fault Refusal :=
  if s.halted then .next s.clearReport
  else
    match s.fetch with
    | none => .next (fetchFault s)
    | some w => finishStep (execWord w (beginStep s))

/-- The host's entry: the state with the instruction of a table word stored where the next step fetches. -/
def State.withFetchWord (s : State) (nbits w : Nat) : State := s.placeWord (tableWord nbits w)

end Sys2Proof.Machine
end

