-- ==== Sys2Proof/Machine/Ports.lean ====
section
/-! DEFINITION. The block's ports and the host's actions between steps (spec 60 R201 to R206; 70 R230 to R236). STEP is
`step`; the others are here. The host acts between steps only (60 R203). -/

namespace Sys2Proof.Machine

/-! ## Outputs -/

/-- `SOUND_ON = (ST != 0)` (60 R205). -/
def soundOn (s : State) : Bool := decide (s.st ≠ 0)

/-- `ST_OUT = ST` (60 R205). -/
def stOut (s : State) : Byte := s.st

/-- `FB_OUT`: cell `t` (60 R202). -/
def fbOut (s : State) (t : Fin 2048) : Bool := s.fb.cell t

/-- The two bits of `FAULT_CODE` (10 R35). -/
def FaultCode.bits : FaultCode → BitVec 2
  | .none => 0
  | .fetchOutOfRange => 1
  | .stackOverflow => 2
  | .stackUnderflow => 3

/-- `STATUS`: `HALTED`, `FAULT_CODE`, `FAULT_PC`, `FAULT_WORD` (10 R35, 60 R201). -/
def statusOut (s : State) : Bool × BitVec 2 × Word × Word := (s.halted, s.faultCode.bits, s.faultPc, s.faultWord)

/-- `DIAG`: UNKNOWN_INSTRUCTION and ADDRESS_WRAPPED of the last step (60 R201). -/
def diagOut (s : State) : Bool × Bool := (s.report.unknownInstruction, s.report.addressWrapped)

/-! ## The boot-time load (70 R235, R236) -/

/-- What LOAD returns (60 R197, 70 R236). -/
inductive LoadResult where
  | ok
  | romTooLarge
deriving DecidableEq, Repr

/-- The loop of `Load`: the next byte goes to address `a`, until the bytes end or `a > 0xFFF` (70 R236). -/
def loadFrom : Nat → List Byte → Memory → Memory × LoadResult
  | _, [], m => (m, .ok)
  | a, b :: bs, m => if a > 0xFFF then (m, .romTooLarge) else loadFrom (a + 1) bs (m.write (BitVec.ofNat 12 a) b)

/-- RESET and then LOAD of a block with the given parameters, in the one order 70 R235 gives: the state the first step
sees, and what LOAD returned. A load at another time has no meaning (D19), and the model has none: assumption log
entry 7. -/
def boot (p : Params) (program : List Byte) : State × LoadResult :=
  let loaded := loadFrom 0x200 program (resetWith p).mem
  ((resetWith p).setMem loaded.1, loaded.2)

/-! ## The host's actions between steps -/

/-- What the host may do to the block between two steps (60 R206), STEP and reading outputs apart. -/
inductive HostAction where
  /-- RESET (70 R230). -/
  | reset
  /-- RESET and the one LOAD after it (70 R235). -/
  | boot (program : List Byte)
  /-- The host leaves the keypad so (60 R203). -/
  | keys (key : Vector Bool 16)
  /-- TICK (60 R213). -/
  | tick
deriving DecidableEq, Repr

/-- TICK: the timer phase, when `HALTED = 0`; a block with `TIMER_SOURCE = PER_STEP` has no TICK, so there it does
nothing (60 R212, R213, R194; log entry 8). -/
def tick (s : State) : State :=
  match s.params.timerSource with
  | .perStep => s
  | .externalTick => if s.halted then s else timerPhase s

/-- The effect of a host action. RESET and boot keep the block's parameters, and the count of random bytes drawn, so
that a run after a reset draws anew (log entry 14). -/
def act : HostAction → State → State
  | .reset, s => (resetWith s.params).setDraws s.draws
  | .boot program, s => (boot s.params program).1.setDraws s.draws
  | .keys key, s => s.setKeys key
  | .tick, s => tick s

end Sys2Proof.Machine
end

