-- ==== Sys2Proof/Safety.lean ====
section
/-! DEFINITION. The terms claims are stated in: the end of a run (spec 70 R252), what a step may leave changed, the
invariant of the machine, and runs of steps and host actions. -/

namespace Sys2Proof.Machine

/-! ## The end of a run (70 R252) -/

/-- The run ends well at `e`: not halted, `pc = e`, and the word there is a jump to itself. -/
def EndsWell (e : Word) (s : State) : Prop :=
  s.halted = false ∧ s.pc = e ∧ ∃ nnn, s.fetch = some (encode (.jpNnn nnn)) ∧ addrWord nnn = e

/-- The run ends badly. -/
def EndsBadly (s : State) : Prop := s.halted = true

/-! ## Frames -/

/-- The pieces of state apart from the general registers, and from the keypad and the parameters, which no step may
change. -/
inductive Part where
  | memory
  | index
  | pc
  | stack
  | sp
  | dt
  | st
  | screen
  | faultStatus
  | report
  | draws
deriving DecidableEq, Repr

/-- A piece of state is the same in `t` as in `s`; for memory, every byte reads as before. -/
def Part.Same : Part → State → State → Prop
  | .memory, s, t => ∀ a : Addr, t.mem.read a = s.mem.read a
  | .index, s, t => t.index = s.index
  | .pc, s, t => t.pc = s.pc
  | .stack, s, t => t.stack = s.stack
  | .sp, s, t => t.sp = s.sp
  | .dt, s, t => t.dt = s.dt
  | .st, s, t => t.st = s.st
  | .screen, s, t => t.fb = s.fb
  | .faultStatus, s, t =>
    t.halted = s.halted ∧ t.faultCode = s.faultCode ∧ t.faultPc = s.faultPc ∧ t.faultWord = s.faultWord
  | .report, s, t => t.report = s.report
  | .draws, s, t => t.draws = s.draws

/-- From `s` to `t` nothing is written but the general registers `regs` and the pieces `parts`. -/
def OnlyWrites (regs : List Reg) (parts : List Part) (s t : State) : Prop :=
  (∀ r, r ∉ regs → t.getV r = s.getV r) ∧ (∀ p, p ∉ parts → p.Same s t) ∧ t.key = s.key ∧ t.params = s.params

/-- The instruction answers a next state, and `P` holds of it. The state `s` is the one a handler sees, after the
fetch advance (30 R80), so `s.pc` is the address of the next word. -/
def Completes (i : Instr) (s : State) (P : State → Prop) : Prop := ∃ t, exec i s = .next t ∧ P t

/-- The general registers an instruction may write (10 R23). -/
def writtenRegs : Instr → List Reg
  | .ldVxKk x _ | .addVxKk x _ | .ldVxVy x _ | .rnd x _ | .ldVxDt x | .ldVxK x => [x]
  | .orVxVy x _ | .andVxVy x _ | .xorVxVy x _ | .addVxVy x _ | .subVxVy x _ | .shrVxVy x _ | .subnVxVy x _
  | .shlVxVy x _ => [x, 15]
  | .drw _ _ _ => [15]
  | .ldVxMi x => (List.finRange 16).take (x.val + 1)
  | .cls | .ret | .jpNnn _ | .call _ | .seVxKk _ _ | .sneVxKk _ _ | .seVxVy _ _ | .sneVxVy _ _ | .ldINnn _
  | .jpV0Nnn _ | .skp _ | .sknp _ | .ldDtVx _ | .ldStVx _ | .addIVx _ | .ldFVx _ | .ldBVx _ | .ldMiVx _ => []

/-- The other pieces of state an instruction may write (10 R23), the fault entry of CALL and RET (60 R193) and the
report of a wrapped address (20 R55) among them. -/
def writtenParts : Instr → List Part
  | .cls => [.screen]
  | .ret => [.sp, .pc, .faultStatus, .report]
  | .call _ => [.stack, .sp, .pc, .faultStatus, .report]
  | .jpNnn _ | .jpV0Nnn _ | .seVxKk _ _ | .sneVxKk _ _ | .seVxVy _ _ | .sneVxVy _ _ | .skp _ | .sknp _ | .ldVxK _ =>
    [.pc]
  | .ldINnn _ | .addIVx _ | .ldFVx _ => [.index]
  | .rnd _ _ => [.draws]
  | .drw _ _ _ => [.screen, .report]
  | .ldDtVx _ => [.dt]
  | .ldStVx _ => [.st]
  | .ldBVx _ | .ldMiVx _ => [.memory, .report]
  | .ldVxMi _ => [.report]
  | .ldVxKk _ _ | .addVxKk _ _ | .ldVxVy _ _ | .orVxVy _ _ | .andVxVy _ _ | .xorVxVy _ _ | .addVxVy _ _
  | .subVxVy _ _ | .shrVxVy _ _ | .subnVxVy _ _ | .shlVxVy _ _ | .ldVxDt _ => []

/-- How many data accesses from `I` on an instruction makes (20 R50, R54). -/
def dataAccesses : Instr → Nat
  | .drw _ _ n => n
  | .ldBVx _ => 3
  | .ldMiVx x | .ldVxMi x => x.val + 1
  | .cls | .ret | .jpNnn _ | .call _ | .seVxKk _ _ | .sneVxKk _ _ | .seVxVy _ _ | .ldVxKk _ _ | .addVxKk _ _
  | .ldVxVy _ _ | .orVxVy _ _ | .andVxVy _ _ | .xorVxVy _ _ | .addVxVy _ _ | .subVxVy _ _ | .shrVxVy _ _
  | .subnVxVy _ _ | .shlVxVy _ _ | .sneVxVy _ _ | .ldINnn _ | .jpV0Nnn _ | .rnd _ _ | .skp _ | .sknp _
  | .ldVxDt _ | .ldVxK _ | .ldDtVx _ | .ldStVx _ | .addIVx _ | .ldFVx _ => 0

/-- From `s` to `t` the report gains ADDRESS_WRAPPED exactly if one of `count` data accesses from `I` on has
`I + k > 0xFFF` (20 R55), and nothing else. -/
def ReportsWrap (count : Nat) (s t : State) : Prop :=
  t.report.fault = s.report.fault ∧ t.report.unknownInstruction = s.report.unknownInstruction ∧
    (t.report.addressWrapped = true ↔ s.report.addressWrapped = true ∨ ∃ k < count, s.index.toNat + k > 0xFFF)

/-- From `s` to `t` a handler raised a fault (60 R193): `pc` is the faulting instruction's own address again, the fault
is latched and reported, and nothing else is written. -/
def TakesFault (code : FaultCode) (word : Word) (s t : State) : Prop :=
  t.pc = s.pc - 2 ∧ t.halted = true ∧ t.faultCode = code ∧ t.faultPc = s.pc - 2 ∧ t.faultWord = word ∧
    t.report = { s.report with fault := code } ∧ OnlyWrites [] [.pc, .faultStatus, .report] s t

/-- From `s` to `t` a whole step raised a fault (60 R190, R193): the fault is latched with `FAULT_PC` the `pc` of the
step's start, the fault and no diagnostic is reported, and nothing else is written. -/
def LatchesFault (code : FaultCode) (word : Word) (s t : State) : Prop :=
  t.halted = true ∧ t.faultCode = code ∧ t.faultPc = s.pc ∧ t.faultWord = word ∧ t.report = ⟨code, false, false⟩ ∧
    OnlyWrites [] [.faultStatus, .report] s t

/-- From `s` to `t` only `pc` is written: `pc + 2` if the condition holds, else `pc` stays (00 R11). -/
def SkipsIf (c : Prop) (s t : State) : Prop :=
  (c → t.pc = s.pc + 2) ∧ (¬c → t.pc = s.pc) ∧ OnlyWrites [] [.pc] s t

/-- The timers after a step, given their values `d` and `e` when its handler ended without a fault (30 R89, 60 R211 to
R213): counted down and clamped at 0 in a PER_STEP block, as they were in an EXTERNAL_TICK block. -/
def TimersAfter (d e : Byte) (t : State) : Prop :=
  match t.params.timerSource with
  | .perStep => t.dt.toNat = d.toNat - 1 ∧ t.st.toNat = e.toNat - 1
  | .externalTick => t.dt = d ∧ t.st = e

/-! ## The invariant -/

/-- The step's result is one of 60 R198's: a fault, one of the two diagnostics, or nothing. -/
def Report.Exclusive (r : Report) : Prop :=
  (r.fault ≠ .none → r.unknownInstruction = false ∧ r.addressWrapped = false) ∧
  (r.unknownInstruction = true → r.addressWrapped = false)

/-- The fault status says what happened (10 R35, 60 R190, R193): `HALTED = 1` exactly when `FAULT_CODE` is not NONE; the
block still stands at the faulting instruction, and stepping it again could only raise the same fault (60 R194). -/
def FaultStatusTrue (s : State) : Prop :=
  match s.faultCode with
  | .none => s.halted = false ∧ s.faultPc = 0 ∧ s.faultWord = 0
  | .fetchOutOfRange => s.halted = true ∧ s.faultPc = s.pc ∧ s.faultWord = 0 ∧ s.fetch = none
  | .stackOverflow =>
    s.halted = true ∧ s.faultPc = s.pc ∧ s.fetch = some s.faultWord ∧ s.sp = 16 ∧ ∃ nnn, decode s.faultWord = .ok (.call nnn)
  | .stackUnderflow =>
    s.halted = true ∧ s.faultPc = s.pc ∧ s.fetch = some s.faultWord ∧ s.sp = 0 ∧ s.faultWord = 0x00EE

/-- What every step and every host action keeps: canonical memory, a true fault status, return addresses at most 0x1000
(41 R112), `pc` at most 0x10FE (10 R25), and an exclusive report (60 R198). -/
def State.Inv (s : State) : Prop :=
  s.mem.wf = true ∧ FaultStatusTrue s ∧ (∀ j : Fin 16, s.stack[j].toNat ≤ 0x1000) ∧ s.pc.toNat ≤ 0x10FE ∧
    s.report.Exclusive

/-! ## Runs -/

/-- One thing that can happen to the block. -/
inductive Event where
  | step
  | host (a : HostAction)
deriving DecidableEq, Repr

/-- The event brings the block to its reset state: RESET, or a boot, which begins with one (60 R195, 70 R235). -/
def Event.isReset : Event → Bool
  | .host .reset | .host (.boot _) => true
  | .step | .host (.keys _) | .host .tick => false

/-- The state after one event (a step answers a next state always, so the other two outcomes never arise). -/
def applyEvent : Event → State → State
  | .step, s =>
    match step s with
    | .next t => t
    | .fault _ => s
    | .refused _ => s
  | .host a, s => act a s

/-- The state after a sequence of events, in any interleaving. -/
def runEvents : List Event → State → State
  | [], s => s
  | e :: es, s => runEvents es (applyEvent e s)

end Sys2Proof.Machine
end

