-- ==== Sys2Proof/Certificates/Slice0/Obligations.lean ====
section
/-! DEFINITION. The statements for the provers. Each names in its docstring the rule of the spec it formalises. The
state `s` of a statement about `exec` or `Completes` is the one a handler sees, after the fetch advance (spec 30 R80). -/

open Sys2Proof Sys2Proof.Machine

/-- Decode and encode agree on every well-formed instruction (R70, R71, R72, R73, R76). -/
def Obligations.DecodeInvertsEncode : Prop :=
  ∀ (i : Instr) (rest : List Byte), i.wf = true →
    decode (encode i) = .ok i ∧ decodeBytes (encodeBytes i ++ rest) = .ok (i, rest)

/-- Every word that decodes is the encoding of what it decodes to (R73, R76, R81). -/
def Obligations.EncodeInvertsDecode : Prop :=
  ∀ (w : Word) (i : Instr), decode w = .ok i → i.wf = true ∧ encode i = w

/-- A word decodes to a row's instruction exactly when it selects the row; no word selects two (R76, R81, R82). -/
def Obligations.RowsSelectExactlyWhatDecodes : Prop :=
  opcodeRows.length = 34 ∧
  (∀ (w : Word) (r : Row), r ∈ opcodeRows → (r.selects w = true ↔ ∃ i, decode w = .ok i ∧ i.row = r)) ∧
  (∀ (w : Word) (r q : Row), r ∈ opcodeRows → q ∈ opcodeRows → r.selects w = true → q.selects w = true → r = q) ∧
  (∀ w : Word, (∀ r ∈ opcodeRows, r.selects w = false) ↔ ∃ e, decode w = .error e)

/-- The rejected words are exactly those of the spec's table of unknown words (R82, R83, R84, R85, R86, R87). -/
def Obligations.UnknownWordsAreTheSpecsTable : Prop :=
  ∀ (w : Word) (e : Reject), decode w = .error e ↔
    (e = .family0 ∧ fieldFamily w = 0x0 ∧ w ≠ 0x00E0 ∧ w ≠ 0x00EE) ∨
    (e = .family5 ∧ fieldFamily w = 0x5 ∧ fieldN w ≠ 0) ∨
    (e = .family8 ∧ fieldFamily w = 0x8 ∧ fieldN w ∈ [0x8, 0x9, 0xA, 0xB, 0xC, 0xD, 0xF]) ∨
    (e = .family9 ∧ fieldFamily w = 0x9 ∧ fieldN w ≠ 0) ∨
    (e = .familyE ∧ fieldFamily w = 0xE ∧ fieldKk w ≠ 0x9E ∧ fieldKk w ≠ 0xA1) ∨
    (e = .familyF ∧ fieldFamily w = 0xF ∧
      fieldKk w ∉ [0x07, 0x0A, 0x15, 0x18, 0x1E, 0x29, 0x33, 0x55, 0x65])

/-- Words written out from the opcode table decode to the instructions they stand for (R76, R83, R84). -/
def Obligations.SampleWordsDecode : Prop :=
  decodeBytes [0x60, 0x05] = .ok (.ldVxKk 0 0x05, []) ∧ decodeBytes [0xD0, 0x05] = .ok (.drw 0 0 5, []) ∧
  decodeBytes [0x22, 0x0A] = .ok (.call 0x20A, []) ∧ decodeBytes [0x8F, 0x15] = .ok (.subVxVy 15 1, []) ∧
  decodeBytes [0xF2, 0x65] = .ok (.ldVxMi 2, []) ∧ decodeBytes [0xE0, 0x9E] = .ok (.skp 0, []) ∧
  decodeBytes [0x12, 0x34] = .ok (.jpNnn 0x234, []) ∧
  decode 0x01E0 = .error .family0 ∧ decode 0x5341 = .error .family5 ∧ decode 0x9341 = .error .family9

/-- A step runs the instruction that the two bytes at pc decode to (R53, R78, R79, R80, R81, R89). -/
def Obligations.StepRunsTheDecodedInstruction : Prop :=
  ∀ (s : State) (i : Instr), s.halted = false → s.pc.toNat ≤ 0xFFE →
    decodeBytes [s.mem.read (dataAddr s.pc 0), s.mem.read (dataAddr s.pc 1)] = .ok (i, []) → i.wf = true →
    (beginStep s).pc = s.pc + 2 ∧ (beginStep s).report = .empty ∧ OnlyWrites [] [.pc, .report] s (beginStep s) ∧
    step s = finishStep (exec i (beginStep s)) ∧
    ∀ t, exec i (beginStep s) = .next t →
      ∃ u, step s = .next u ∧ OnlyWrites [] [.dt, .st] t u ∧
        (t.halted = true → u = t) ∧ (t.halted = false → TimersAfter t.dt t.st u)

/-- The fetch reads the big-endian word at any pc up to 0xFFE and faults beyond (R53, R57, R79). -/
def Obligations.FetchIsBigEndianOrFaults : Prop :=
  (∀ s : State, s.pc.toNat ≤ 0xFFE →
    ∃ w, s.fetch = some w ∧
      w.toNat = (s.mem.read (BitVec.ofNat 12 s.pc.toNat)).toNat * 256 +
        (s.mem.read (BitVec.ofNat 12 (s.pc.toNat + 1))).toNat) ∧
  (∀ s : State, s.halted = false → 0xFFE < s.pc.toNat →
    s.fetch = none ∧
    ∃ t, step s = .next t ∧ t.halted = true ∧ t.faultCode = .fetchOutOfRange ∧ t.faultPc = s.pc ∧ t.faultWord = 0 ∧
      t.report = ⟨.fetchOutOfRange, false, false⟩ ∧ OnlyWrites [] [.faultStatus, .report] s t)

/-- A step of an unknown word advances pc, counts the timers and reports UNKNOWN_INSTRUCTION (R80, R82, R89, R196). -/
def Obligations.UnknownWordIsANoOpWithADiagnostic : Prop :=
  ∀ (s : State) (w : Word) (e : Reject), s.halted = false → s.fetch = some w → decode w = .error e →
    ∃ t, step s = .next t ∧ t.pc = s.pc + 2 ∧ t.report = ⟨.none, true, false⟩ ∧ TimersAfter s.dt s.st t ∧
      OnlyWrites [] [.pc, .report, .dt, .st] s t

/-- While halted, a step and a tick change nothing and report nothing (the report field: log entry 5; TICK in a PER_STEP
block: log entry 8) (R194, R212). -/
def Obligations.HaltedBlockChangesNothing : Prop :=
  ∀ s : State, s.halted = true → step s = .next { s with report := .empty } ∧ act .tick s = s

/-- Every step of every state answers a next state (that a faulting step does: log entry 4) (R193, R194, R198, R200, R250,
R252). -/
def Obligations.StepAlwaysAnswersANextState : Prop :=
  (∀ s : State, ∃ t, step s = .next t) ∧ ∀ (i : Instr) (s : State), ∃ t, exec i s = .next t

/-- A step faults exactly in the spec's three cases, and a faulting step commits nothing (R190, R193). -/
def Obligations.FaultsAreExactAndPrecise : Prop :=
  ∀ s t : State, s.halted = false → step s = .next t →
    if s.fetch = none then LatchesFault .fetchOutOfRange 0 s t
    else if s.sp = 16 ∧ ∃ nnn, s.fetch = some (encodeNnn 0x2 nnn) then
      ∃ w, s.fetch = some w ∧ LatchesFault .stackOverflow w s t
    else if s.sp = 0 ∧ s.fetch = some 0x00EE then LatchesFault .stackUnderflow 0x00EE s t
    else Part.faultStatus.Same s t ∧ t.report.fault = .none

/-- A step reports UNKNOWN_INSTRUCTION and ADDRESS_WRAPPED exactly when the spec says (R55, R196, R198). -/
def Obligations.DiagnosticsAreExact : Prop :=
  ∀ s t : State, s.halted = false → step s = .next t →
    (t.report.unknownInstruction = true ↔ ∃ w e, s.fetch = some w ∧ decode w = .error e) ∧
    (t.report.addressWrapped = true ↔
      ∃ w i k, s.fetch = some w ∧ decode w = .ok i ∧ k < dataAccesses i ∧ s.index.toNat + k > 0xFFF)

/-- Each step that does not fault counts the timers once in a PER_STEP block and never in an EXTERNAL_TICK block (R89,
R211, R212, R213, R214). -/
def Obligations.TimersCountOncePerStepOrNotAtAll : Prop :=
  ∀ (s t : State) (w : Word), s.halted = false → s.fetch = some w → step s = .next t → t.halted = false →
    (∀ x, decode w ≠ .ok (.ldDtVx x)) → (∀ x, decode w ≠ .ok (.ldStVx x)) → TimersAfter s.dt s.st t

/-- In a PER_STEP block DT falls by one a step, over steps and key changes, while no step faults or runs LD DT, Vx (runs:
log entry 6) (R89, R203, R211, R242). -/
def Obligations.DelayTimerReachesZeroOnTime : Prop :=
  ∀ (es : List Event) (s : State), s.params.timerSource = .perStep →
    (∀ e ∈ es, e = .step ∨ ∃ key, e = .host (.keys key)) →
    (∀ n ≤ es.length, (runEvents (es.take n) s).halted = false) →
    (∀ n, es[n]? = some .step → ∀ w x, (runEvents (es.take n) s).fetch = some w → decode w ≠ .ok (.ldDtVx x)) →
    (runEvents es s).dt.toNat = s.dt.toNat - es.count .step

/-- CLS leaves every framebuffer cell unlit and writes nothing else (R100). -/
def Obligations.ClearScreenUnlightsEveryCell : Prop :=
  decode 0x00E0 = .ok .cls ∧
  ∀ s : State, Completes .cls s fun t => (∀ c : Fin 2048, t.fb.cell c = false) ∧ OnlyWrites [] [.screen] s t

/-- DRW XORs the n sprite rows onto the screen, both axes wrapping, and sets VF to the collision (R101). -/
def Obligations.DrawXorsTheSprite : Prop :=
  ∀ (x y : Reg) (n : Nat) (s : State), n ≤ 15 →
    let row := (s.getV y).toNat % 32
    let col := (s.getV x).toNat % 64
    let bit := fun r c : Nat => (s.mem.read (dataAddr s.index r)).getLsbD (7 - c)
    let collides := ∃ r < n, ∃ c < 8, bit r c = true ∧ s.fb.lit (row + r) (col + c) = true
    decode (encodeXyN 0xD x y (BitVec.ofNat 4 n)) = .ok (.drw x y n) ∧
    Completes (.drw x y n) s fun t =>
      (∀ r < n, ∀ c < 8, t.fb.lit (row + r) (col + c) = (s.fb.lit (row + r) (col + c) ^^ bit r c)) ∧
      (∀ a b : Nat, (∀ r < n, ∀ c < 8, ¬(a % 32 = (row + r) % 32 ∧ b % 64 = (col + c) % 64)) →
        t.fb.lit a b = s.fb.lit a b) ∧
      (collides → t.getV 15 = 1) ∧ (¬collides → t.getV 15 = 0) ∧
      ReportsWrap n s t ∧ OnlyWrites [15] [.screen, .report] s t

/-- Drawing the same sprite at the same place twice in succession restores the framebuffer (the second draw's VF: log
entry 18) (R101). -/
def Obligations.DrawingTwiceRestoresTheScreen : Prop :=
  ∀ (x y : Reg) (n : Nat) (s : State), x ≠ 15 → y ≠ 15 → n ≤ 15 →
    Completes (.drw x y n) s fun t => Completes (.drw x y n) t fun u =>
      u.fb = s.fb ∧
      (u.getV 15 = 1 ↔ ∃ r < n, ∃ c < 8, (s.mem.read (dataAddr s.index r)).getLsbD (7 - c) = true ∧
        s.fb.lit ((s.getV y).toNat % 32 + r) ((s.getV x).toNat % 64 + c) = false)

/-- RET returns to the top slot, and with an empty stack takes STACK_UNDERFLOW (R110, R192). -/
def Obligations.ReturnPopsOrUnderflows : Prop :=
  decode 0x00EE = .ok .ret ∧
  ∀ s : State,
    (0 < s.sp.val → Completes .ret s fun t =>
      t.sp.val + 1 = s.sp.val ∧ some t.pc = s.stack[t.sp.val]? ∧ OnlyWrites [] [.sp, .pc] s t) ∧
    (s.sp.val = 0 → Completes .ret s fun t => TakesFault .stackUnderflow 0x00EE s t)

/-- CALL pushes the return address and jumps, and with a full stack takes STACK_OVERFLOW (R112, R191). -/
def Obligations.CallPushesOrOverflows : Prop :=
  ∀ (nnn : Addr) (s : State),
    decode (encodeNnn 0x2 nnn) = .ok (.call nnn) ∧
    (s.sp.val < 16 → Completes (.call nnn) s fun t =>
      t.stack[s.sp.val]? = some s.pc ∧ (∀ j : Nat, j ≠ s.sp.val → t.stack[j]? = s.stack[j]?) ∧
      t.sp.val = s.sp.val + 1 ∧ t.pc.toNat = nnn.toNat ∧ OnlyWrites [] [.stack, .sp, .pc] s t) ∧
    (s.sp.val = 16 → Completes (.call nnn) s fun t => TakesFault .stackOverflow (encodeNnn 0x2 nnn) s t)

/-- A CALL and then a RET come back to the word after the CALL, with the stack pointer as before (R110, R112, R118). -/
def Obligations.ReturnUndoesCall : Prop :=
  ∀ (nnn : Addr) (s : State) (w : Word), s.sp.val < 16 →
    Completes (.call nnn) s fun t => Completes .ret (t.setPc w) fun u =>
      u.pc = s.pc ∧ u.sp = s.sp ∧ u.stack[s.sp.val]? = some s.pc ∧
      (∀ j : Nat, j ≠ s.sp.val → u.stack[j]? = s.stack[j]?) ∧ OnlyWrites [] [.stack] s u

/-- JP sets pc to nnn, from which the next fetch faults only when nnn is 0xFFF (R111). -/
def Obligations.JumpSetsPc : Prop :=
  ∀ (nnn : Addr) (s : State), decode (encodeNnn 0x1 nnn) = .ok (.jpNnn nnn) ∧
    Completes (.jpNnn nnn) s fun t =>
      t.pc.toNat = nnn.toNat ∧ (t.fetch = none ↔ nnn = 0xFFF) ∧ OnlyWrites [] [.pc] s t

/-- JP V0 sets pc to the plain sum of V0 and nnn (R117). -/
def Obligations.JumpWithOffsetAddsV0 : Prop :=
  ∀ (nnn : Addr) (s : State), decode (encodeNnn 0xB nnn) = .ok (.jpV0Nnn nnn) ∧
    Completes (.jpV0Nnn nnn) s fun t =>
      t.pc.toNat = (s.getV 0).toNat + nnn.toNat ∧ t.pc.toNat ≤ 0x10FE ∧ OnlyWrites [] [.pc] s t

/-- SE and SNE with an immediate skip exactly on equality and inequality (R113, R114). -/
def Obligations.ImmediateSkipsCompareRegisterAndByte : Prop :=
  ∀ (x : Reg) (kk : Byte) (s : State),
    (decode (encodeXKk 0x3 x kk) = .ok (.seVxKk x kk) ∧
      Completes (.seVxKk x kk) s fun t => SkipsIf (s.getV x = kk) s t) ∧
    (decode (encodeXKk 0x4 x kk) = .ok (.sneVxKk x kk) ∧
      Completes (.sneVxKk x kk) s fun t => SkipsIf (s.getV x ≠ kk) s t)

/-- SE and SNE with two registers skip exactly on equality and inequality (R115, R116). -/
def Obligations.RegisterSkipsCompareTwoRegisters : Prop :=
  ∀ (x y : Reg) (s : State),
    (decode (encodeXyN 0x5 x y 0x0) = .ok (.seVxVy x y) ∧
      (∀ n : BitVec 4, n ≠ 0 → decode (encodeXyN 0x5 x y n) = .error .family5) ∧
      Completes (.seVxVy x y) s fun t => SkipsIf (s.getV x = s.getV y) s t) ∧
    (decode (encodeXyN 0x9 x y 0x0) = .ok (.sneVxVy x y) ∧
      (∀ n : BitVec 4, n ≠ 0 → decode (encodeXyN 0x9 x y n) = .error .family9) ∧
      Completes (.sneVxVy x y) s fun t => SkipsIf (s.getV x ≠ s.getV y) s t)

/-- LD Vx, kk, ADD Vx, kk and LD Vx, Vy write V[x] and no flag (R130, R131, R132). -/
def Obligations.LoadsAndImmediateAddWriteOneRegister : Prop :=
  ∀ (x y : Reg) (kk : Byte) (s : State),
    (decode (encodeXKk 0x6 x kk) = .ok (.ldVxKk x kk) ∧
      Completes (.ldVxKk x kk) s fun t => t.getV x = kk ∧ OnlyWrites [x] [] s t) ∧
    (decode (encodeXKk 0x7 x kk) = .ok (.addVxKk x kk) ∧
      Completes (.addVxKk x kk) s fun t =>
        (t.getV x).toNat = ((s.getV x).toNat + kk.toNat) % 256 ∧ OnlyWrites [x] [] s t) ∧
    (decode (encodeXyN 0x8 x y 0x0) = .ok (.ldVxVy x y) ∧
      Completes (.ldVxVy x y) s fun t => t.getV x = s.getV y ∧ OnlyWrites [x] [] s t)

/-- OR, AND and XOR write V[x] and then set VF to 0 (R133, R134, R135). -/
def Obligations.LogicWritesResultThenClearsFlag : Prop :=
  ∀ (x y : Reg) (s : State),
    (decode (encodeXyN 0x8 x y 0x1) = .ok (.orVxVy x y) ∧
      Completes (.orVxVy x y) s fun t =>
        t.getV 15 = 0 ∧ (x ≠ 15 → t.getV x = s.getV x ||| s.getV y) ∧ OnlyWrites [x, 15] [] s t) ∧
    (decode (encodeXyN 0x8 x y 0x2) = .ok (.andVxVy x y) ∧
      Completes (.andVxVy x y) s fun t =>
        t.getV 15 = 0 ∧ (x ≠ 15 → t.getV x = s.getV x &&& s.getV y) ∧ OnlyWrites [x, 15] [] s t) ∧
    (decode (encodeXyN 0x8 x y 0x3) = .ok (.xorVxVy x y) ∧
      Completes (.xorVxVy x y) s fun t =>
        t.getV 15 = 0 ∧ (x ≠ 15 → t.getV x = s.getV x ^^^ s.getV y) ∧ OnlyWrites [x, 15] [] s t)

/-- ADD Vx, Vy writes the sum modulo 256 and VF = carry (R136). -/
def Obligations.AddWritesSumAndCarry : Prop :=
  ∀ (x y : Reg) (s : State), decode (encodeXyN 0x8 x y 0x4) = .ok (.addVxVy x y) ∧
    Completes (.addVxVy x y) s fun t =>
      (t.getV x).toNat = ((s.getV x).toNat + (s.getV y).toNat) % 256 ∧
      (x ≠ 15 → t.getV 15 = if (s.getV x).toNat + (s.getV y).toNat > 255 then 1 else 0) ∧
      OnlyWrites [x, 15] [] s t

/-- SUB writes VF = strictly greater, then the difference, reading VF as just written (R137). -/
def Obligations.SubtractWritesFlagThenDifference : Prop :=
  ∀ (x y : Reg) (s : State), decode (encodeXyN 0x8 x y 0x5) = .ok (.subVxVy x y) ∧
    Completes (.subVxVy x y) s fun t =>
      let c : Nat := if (s.getV x).toNat > (s.getV y).toNat then 1 else 0
      OnlyWrites [x, 15] [] s t ∧
      (x ≠ 15 → (t.getV 15).toNat = c) ∧
      (x ≠ 15 → y ≠ 15 → (t.getV x).toNat = ((s.getV x).toNat + 256 - (s.getV y).toNat) % 256) ∧
      (x ≠ 15 → y = 15 → (t.getV x).toNat = ((s.getV x).toNat + 256 - c) % 256) ∧
      (x = 15 → y ≠ 15 → (t.getV 15).toNat = (c + 256 - (s.getV y).toNat) % 256) ∧
      (x = 15 → y = 15 → t.getV 15 = 0)

/-- SUBN writes VF = strictly greater, then the reverse difference, reading VF as just written (R139). -/
def Obligations.ReverseSubtractWritesFlagThenDifference : Prop :=
  ∀ (x y : Reg) (s : State), decode (encodeXyN 0x8 x y 0x7) = .ok (.subnVxVy x y) ∧
    Completes (.subnVxVy x y) s fun t =>
      let c : Nat := if (s.getV y).toNat > (s.getV x).toNat then 1 else 0
      OnlyWrites [x, 15] [] s t ∧
      (x ≠ 15 → (t.getV 15).toNat = c) ∧
      (x ≠ 15 → y ≠ 15 → (t.getV x).toNat = ((s.getV y).toNat + 256 - (s.getV x).toNat) % 256) ∧
      (x ≠ 15 → y = 15 → (t.getV x).toNat = (c + 256 - (s.getV x).toNat) % 256) ∧
      (x = 15 → y ≠ 15 → (t.getV 15).toNat = ((s.getV y).toNat + 256 - c) % 256) ∧
      (x = 15 → y = 15 → t.getV 15 = 0)

/-- SHR and SHL shift V[x] by one and set VF to the bit moved out, Vy not read (R138, R140). -/
def Obligations.ShiftsWriteTheBitMovedOut : Prop :=
  ∀ (x y : Reg) (s : State),
    (decode (encodeXyN 0x8 x y 0x6) = .ok (.shrVxVy x y) ∧
      Completes (.shrVxVy x y) s fun t =>
        (x ≠ 15 → (t.getV x).toNat = (s.getV x).toNat / 2 ∧ (t.getV 15).toNat = (s.getV x).toNat % 2) ∧
        (x = 15 → t.getV 15 = 0) ∧ OnlyWrites [x, 15] [] s t) ∧
    (decode (encodeXyN 0x8 x y 0xE) = .ok (.shlVxVy x y) ∧
      Completes (.shlVxVy x y) s fun t =>
        (x ≠ 15 → (t.getV x).toNat = (s.getV x).toNat * 2 % 256 ∧ (t.getV 15).toNat = (s.getV x).toNat / 128) ∧
        (x = 15 → (t.getV 15).toNat = (s.getV 15).toNat / 128 * 2) ∧ OnlyWrites [x, 15] [] s t)

/-- RND writes a free byte ANDed with kk (the free sequence and the count of bytes drawn: log entry 3) (R141, R204). -/
def Obligations.RandomByteIsMasked : Prop :=
  ∀ (x : Reg) (kk : Byte) (s : State), decode (encodeXKk 0xC x kk) = .ok (.rnd x kk) ∧
    Completes (.rnd x kk) s fun t =>
      t.getV x = Config.randByte s.draws &&& kk ∧ t.getV x &&& ~~~kk = 0 ∧ (kk = 0 → t.getV x = 0) ∧
      t.draws = s.draws + 1 ∧ OnlyWrites [x] [.draws] s t

/-- LD I, ADD I and LD F write I and nothing else (R151, R152, R153). -/
def Obligations.IndexInstructionsWriteI : Prop :=
  ∀ (x : Reg) (nnn : Addr) (s : State),
    (decode (encodeNnn 0xA nnn) = .ok (.ldINnn nnn) ∧
      Completes (.ldINnn nnn) s fun t => t.index.toNat = nnn.toNat ∧ OnlyWrites [] [.index] s t) ∧
    (decode (encodeXKk 0xF x 0x1E) = .ok (.addIVx x) ∧
      Completes (.addIVx x) s fun t =>
        t.index.toNat = (s.index.toNat + (s.getV x).toNat) % 65536 ∧ OnlyWrites [] [.index] s t) ∧
    (decode (encodeXKk 0xF x 0x29) = .ok (.ldFVx x) ∧
      Completes (.ldFVx x) s fun t => t.index.toNat = (s.getV x).toNat * 5 ∧ OnlyWrites [] [.index] s t)

/-- LD B stores hundreds, tens and ones at I, I + 1 and I + 2, modulo 4096 (R154). -/
def Obligations.DecimalDigitsAreStored : Prop :=
  ∀ (x : Reg) (s : State), decode (encodeXKk 0xF x 0x33) = .ok (.ldBVx x) ∧
    Completes (.ldBVx x) s fun t =>
      (s.mem.wf = true →
        (t.mem.read (dataAddr s.index 0)).toNat = (s.getV x).toNat / 100 ∧
        (t.mem.read (dataAddr s.index 1)).toNat = (s.getV x).toNat / 10 % 10 ∧
        (t.mem.read (dataAddr s.index 2)).toNat = (s.getV x).toNat % 10) ∧
      (∀ a : Addr, a ≠ dataAddr s.index 0 → a ≠ dataAddr s.index 1 → a ≠ dataAddr s.index 2 →
        t.mem.read a = s.mem.read a) ∧
      ReportsWrap 3 s t ∧ OnlyWrites [] [.memory, .report] s t

/-- LD [I], Vx stores V0 to Vx at I, I + 1, ..., modulo 4096, and leaves I alone (R155). -/
def Obligations.RegistersAreStored : Prop :=
  ∀ (x : Reg) (s : State), decode (encodeXKk 0xF x 0x55) = .ok (.ldMiVx x) ∧
    Completes (.ldMiVx x) s fun t =>
      (s.mem.wf = true → ∀ r : Reg, r ≤ x → t.mem.read (dataAddr s.index r.val) = s.getV r) ∧
      (∀ a : Addr, (∀ r : Reg, r ≤ x → a ≠ dataAddr s.index r.val) → t.mem.read a = s.mem.read a) ∧
      ReportsWrap (x.val + 1) s t ∧ OnlyWrites [] [.memory, .report] s t

/-- LD Vx, [I] loads V0 to Vx from I, I + 1, ..., modulo 4096, and leaves the rest alone (R156). -/
def Obligations.RegistersAreLoaded : Prop :=
  ∀ (x : Reg) (s : State), decode (encodeXKk 0xF x 0x65) = .ok (.ldVxMi x) ∧
    Completes (.ldVxMi x) s fun t =>
      (∀ r : Reg, r ≤ x → t.getV r = s.mem.read (dataAddr s.index r.val)) ∧
      (∀ r : Reg, x < r → t.getV r = s.getV r) ∧
      ReportsWrap (x.val + 1) s t ∧ OnlyWrites ((List.finRange 16).take (x.val + 1)) [.report] s t

/-- Registers stored and then loaded at the same I come back, whatever they held in between (R55, R155, R156). -/
def Obligations.LoadAfterStoreRestoresRegisters : Prop :=
  ∀ (x : Reg) (s : State) (v : Vector Byte 16), s.mem.wf = true →
    Completes (.ldMiVx x) s fun t => Completes (.ldVxMi x) (t.setRegs v) fun u =>
      ∀ r : Reg, r ≤ x → u.getV r = s.getV r

/-- A word stored at pc by LD [I], Vx is the word the next fetch reads (R50, R60, R63). -/
def Obligations.StoredBytesAreFetched : Prop :=
  ∀ (x r q : Reg) (s : State), s.mem.wf = true → s.pc.toNat ≤ 0xFFE → q.val = r.val + 1 → q ≤ x →
    dataAddr s.index r.val = dataAddr s.pc 0 → dataAddr s.index q.val = dataAddr s.pc 1 →
    Completes (.ldMiVx x) s fun t => t.fetch = some (wordOfBytes (s.getV r) (s.getV q))

/-- Two canonical memories whose every byte reads alike are the same list (R34, R50). -/
def Obligations.EqualMemoriesAreEqualData : Prop :=
  ∀ m k : Memory, m.wf = true → k.wf = true → (∀ a : Addr, m.read a = k.read a) → m = k

/-- SKP and SKNP test key V[x] mod 16 (R170, R171, R172). -/
def Obligations.KeySkipsTestTheKeyModulo16 : Prop :=
  ∀ (x : Reg) (s : State),
    (decode (encodeXKk 0xE x 0x9E) = .ok (.skp x) ∧
      Completes (.skp x) s fun t => SkipsIf (s.key[(s.getV x).toNat % 16]? = some true) s t) ∧
    (decode (encodeXKk 0xE x 0xA1) = .ok (.sknp x) ∧
      Completes (.sknp x) s fun t => SkipsIf (s.key[(s.getV x).toNat % 16]? = some false) s t)

/-- LD Vx, K takes the lowest pressed key, and with none pressed comes back to itself (R174). -/
def Obligations.WaitForKeyTakesTheLowestOrRewinds : Prop :=
  ∀ (x : Reg) (s : State), decode (encodeXKk 0xF x 0x0A) = .ok (.ldVxK x) ∧
    (∀ k : Fin 16, s.key[k] = true → (∀ j < k, s.key[j] = false) →
      Completes (.ldVxK x) s fun t => (t.getV x).toNat = k.val ∧ OnlyWrites [x] [] s t) ∧
    ((∀ k : Fin 16, s.key[k] = false) →
      Completes (.ldVxK x) s fun t => t.pc = s.pc - 2 ∧ OnlyWrites [] [.pc] s t)

/-- LD Vx, DT reads the delay timer; LD DT, Vx and LD ST, Vx set a timer, counted down in the same step if PER_STEP (R173,
R175, R176). -/
def Obligations.TimerInstructionsReadAndSet : Prop :=
  (∀ (x : Reg) (s : State),
    (decode (encodeXKk 0xF x 0x07) = .ok (.ldVxDt x) ∧
      Completes (.ldVxDt x) s fun t => t.getV x = s.dt ∧ OnlyWrites [x] [] s t) ∧
    (decode (encodeXKk 0xF x 0x15) = .ok (.ldDtVx x) ∧
      Completes (.ldDtVx x) s fun t => t.dt = s.getV x ∧ OnlyWrites [] [.dt] s t) ∧
    (decode (encodeXKk 0xF x 0x18) = .ok (.ldStVx x) ∧
      Completes (.ldStVx x) s fun t => t.st = s.getV x ∧ OnlyWrites [] [.st] s t)) ∧
  (∀ (x : Reg) (s : State), s.halted = false →
    (s.fetch = some (encodeXKk 0xF x 0x07) → ∃ t, step s = .next t ∧ t.getV x = s.dt ∧ TimersAfter s.dt s.st t) ∧
    (s.fetch = some (encodeXKk 0xF x 0x15) → ∃ t, step s = .next t ∧ TimersAfter (s.getV x) s.st t) ∧
    (s.fetch = some (encodeXKk 0xF x 0x18) → ∃ t, step s = .next t ∧ TimersAfter s.dt (s.getV x) t))

/-- Every instruction writes only the registers, bytes, stack slot and pieces of state of its row of R23 (draws: log entry
3; report: log entry 5) (R23, R27, R28, R29, R32, R33, R35, R54, R55, R154, R155). -/
def Obligations.EveryInstructionKeepsItsFrame : Prop :=
  ∀ (i : Instr) (s : State), Completes i s fun t =>
    OnlyWrites (writtenRegs i) (writtenParts i) s t ∧
    (∀ a : Addr, (∀ k < dataAccesses i, a ≠ dataAddr s.index k) → t.mem.read a = s.mem.read a) ∧
    (∀ j : Nat, j ≠ s.sp.val → t.stack[j]? = s.stack[j]?)

/-- No step writes the keypad or the block's parameters (R7, R32, R203). -/
def Obligations.NoStepWritesKeypadOrParameters : Prop :=
  ∀ s t : State, step s = .next t → t.key = s.key ∧ t.params = s.params

/-- The sound timer influences nothing but itself (R23, R31). -/
def Obligations.NoStepReadsTheSoundTimer : Prop :=
  ∀ (s t : State) (b : Byte), step s = .next t →
    ∃ c, step (s.setTimers s.dt b) = .next (t.setTimers t.dt c)

/-- A halted block and its fault status stay as they are until RESET or boot (report: log entry 5; runs: log entry 6; TICK
in a PER_STEP block: log entry 8) (R35, R194, R195, R203, R206). -/
def Obligations.OnlyResetLeavesTheHaltedState : Prop :=
  (∀ (s : State) (es : List Event), s.halted = true → (∀ e ∈ es, e.isReset = false) →
    runEvents es s = (s.setKeys (runEvents es s).key).setReport (runEvents es s).report) ∧
  ∀ (s : State) (program : List Byte),
    statusOut (act .reset s) = (false, 0, 0, 0) ∧ statusOut (act (.boot program) s) = (false, 0, 0, 0)

/-- A run that ended well stays so: a step at a jump to itself changes nothing but the timers (R111, R252). -/
def Obligations.SelfJumpIsTheEndOfARun : Prop :=
  ∀ (e : Word) (s : State), EndsWell e s →
    ∃ t, step s = .next t ∧ EndsWell e t ∧ OnlyWrites [] [.dt, .st, .report] s t

/-- After reset every piece of state has the value the spec gives, for every FONT (R39, R230, R231, R232). -/
def Obligations.ResetLeavesTheSpecsValues : Prop :=
  ∀ p : Params,
    (∀ a : Addr, (resetWith p).mem.read a = p.font[a.toNat]?.getD 0) ∧
    (∀ x : Reg, (resetWith p).getV x = 0) ∧ (resetWith p).index = 0 ∧ (resetWith p).pc = 0x200 ∧
    (∀ j : Fin 16, (resetWith p).stack[j] = 0) ∧ (resetWith p).sp = 0 ∧ (resetWith p).dt = 0 ∧
    (resetWith p).st = 0 ∧ (∀ k : Fin 16, (resetWith p).key[k] = false) ∧
    (∀ c : Fin 2048, (resetWith p).fb.cell c = false) ∧ statusOut (resetWith p) = (false, 0, 0, 0) ∧
    (resetWith p).params = p

/-- The model's State.reset is the reset of a block with the default parameters (the model's choice, log entries 1 and 2)
(93_implementation_defined.md section 3, R7, R39). -/
def Obligations.ModelsResetIsTheDefaultBlocks : Prop :=
  State.reset = resetWith defaultParams ∧ State.reset.mem = [] ∧ State.reset.params.timerSource = .perStep

/-- RESET leaves the reset state of the same block, whatever the state was (the count of bytes drawn is the model's: log
entry 14) (R195, R230). -/
def Obligations.ResetActionClearsAFault : Prop :=
  ∀ s : State, act .reset s = (resetWith s.params).setDraws s.draws ∧ (act .reset s).halted = false ∧
    (act .reset s).faultCode = .none ∧ (act .reset s).pc = 0x200

/-- The boot-time load copies the program from 0x200 on and reports ROM_TOO_LARGE past 3584 bytes (R236). -/
def Obligations.LoadFillsProgramSpace : Prop :=
  ∀ (p : Params) (program : List Byte),
    (∀ a : Addr, (boot p program).1.mem.read a =
      if a.toNat < 0x200 then (resetWith p).mem.read a
      else program[a.toNat - 0x200]?.getD ((resetWith p).mem.read a)) ∧
    OnlyWrites [] [.memory] (resetWith p) (boot p program).1 ∧
    ((boot p program).2 = .ok ↔ program.length ≤ 3584) ∧
    ((boot p program).2 = .romTooLarge ↔ 3584 < program.length)

/-- TICK counts both timers once, clamped at 0, in an EXTERNAL_TICK block that is not halted (R194, R211, R213). -/
def Obligations.TickRunsTheTimerPhase : Prop :=
  ∀ s : State, s.params.timerSource = .externalTick → s.halted = false →
    (act .tick s).dt.toNat = s.dt.toNat - 1 ∧ (act .tick s).st.toNat = s.st.toNat - 1 ∧
      OnlyWrites [] [.dt, .st] s (act .tick s)

/-- SOUND_ON is 1 exactly when ST is not 0, and ST_OUT is ST (R205). -/
def Obligations.SoundOutputsFollowTheSoundTimer : Prop :=
  ∀ s : State, (soundOn s = true ↔ s.st.toNat ≠ 0) ∧ stOut s = s.st

/-- The word the host places with withFetchWord is the word the next step fetches (log entry 17) (R53, R79). -/
def Obligations.PlacedWordIsFetched : Prop :=
  ∀ (s : State) (w : Nat), s.mem.wf = true → w < 65536 →
    (s.withFetchWord 16 w).halted = false ∧ (s.withFetchWord 16 w).fetch = some (BitVec.ofNat 16 w) ∧
    (s.halted = false → s.pc.toNat ≤ 0xFFE → OnlyWrites [] [.memory] s (s.withFetchWord 16 w) ∧
      ∀ a : Addr, a ≠ dataAddr s.pc 0 → a ≠ dataAddr s.pc 1 → (s.withFetchWord 16 w).mem.read a = s.mem.read a)

/-- The invariant holds at reset (R35, R39). -/
def Obligations.ResetHasTheInvariant : Prop :=
  State.reset.Inv

/-- Every step keeps the invariant (R25, R35, R112, R190, R193, R194, R198). -/
def Obligations.EveryStepKeepsTheInvariant : Prop :=
  ∀ s t : State, s.Inv → step s = .next t → t.Inv

/-- Every host action keeps the invariant (R203, R213, R230, R236). -/
def Obligations.EveryHostActionKeepsTheInvariant : Prop :=
  ∀ (a : HostAction) (s : State), s.Inv → (act a s).Inv

/-- Every state of every run, of any block with any program and any host, has the invariant (runs: log entry 6) (R25, R35,
R193, R206, R236). -/
def Obligations.EveryRunKeepsTheInvariant : Prop :=
  ∀ (p : Params) (program : List Byte) (es : List Event), (runEvents es (boot p program).1).Inv

/-- KEYS writes the keypad and nothing else, and steps read it so until the host writes it again (host actions: log entry
6) (R32, R171, R203, R206). -/
def Obligations.HostKeysAreWhatStepsRead : Prop :=
  ∀ (key : Vector Bool 16) (s : State),
    (act (.keys key) s).key = key ∧ (act (.keys key) s).params = s.params ∧
    (∀ r, (act (.keys key) s).getV r = s.getV r) ∧ (∀ p : Part, p.Same s (act (.keys key) s)) ∧
    (∀ es : List Event, (∀ e ∈ es, e = .step ∨ e = .host .tick) → (runEvents es (act (.keys key) s)).key = key) ∧
    ∀ x : Reg, s.halted = false → s.fetch = some (encodeXKk 0xE x 0x9E) →
      ∃ t, step (act (.keys key) s) = .next t ∧
        t.pc = if key[(s.getV x).toNat % 16]? = some true then s.pc + 4 else s.pc + 2
end

