-- ==== Sys2Proof/Laws/Decode.lean ====
section
/-! SUPPORT. The fields of an encoded word and the word its fields make, one lemma per field and format (spec 30 R72,
R73), so that no later proof takes a word apart by hand. -/

namespace Sys2Proof

@[simp] theorem fieldFamily_encodeNnn (f : BitVec 4) (nnn : Addr) : fieldFamily (encodeNnn f nnn) = f := by
  apply BitVec.eq_of_getLsbD_eq; intro i hi
  interval_cases i <;> simp [fieldFamily, encodeNnn]

@[simp] theorem fieldNnn_encodeNnn (f : BitVec 4) (nnn : Addr) : fieldNnn (encodeNnn f nnn) = nnn := by
  apply BitVec.eq_of_getLsbD_eq; intro i hi
  interval_cases i <;> simp [fieldNnn, encodeNnn]

@[simp] theorem fieldFamily_encodeXKk (f : BitVec 4) (x : Reg) (kk : Byte) : fieldFamily (encodeXKk f x kk) = f := by
  apply BitVec.eq_of_getLsbD_eq; intro i hi
  interval_cases i <;> simp [fieldFamily, encodeXKk]

@[simp] theorem fieldX_encodeXKk (f : BitVec 4) (x : Reg) (kk : Byte) : fieldX (encodeXKk f x kk) = x := by
  have : (encodeXKk f x kk).extractLsb' 8 4 = BitVec.ofFin (w := 4) x := by
    apply BitVec.eq_of_getLsbD_eq; intro i hi
    interval_cases i <;> simp [encodeXKk]
  rw [fieldX, this]

@[simp] theorem fieldKk_encodeXKk (f : BitVec 4) (x : Reg) (kk : Byte) : fieldKk (encodeXKk f x kk) = kk := by
  apply BitVec.eq_of_getLsbD_eq; intro i hi
  interval_cases i <;> simp [fieldKk, encodeXKk]

@[simp] theorem fieldFamily_encodeXyN (f : BitVec 4) (x y : Reg) (n : BitVec 4) : fieldFamily (encodeXyN f x y n) = f := by
  apply BitVec.eq_of_getLsbD_eq; intro i hi
  interval_cases i <;> simp [fieldFamily, encodeXyN]

@[simp] theorem fieldX_encodeXyN (f : BitVec 4) (x y : Reg) (n : BitVec 4) : fieldX (encodeXyN f x y n) = x := by
  have : (encodeXyN f x y n).extractLsb' 8 4 = BitVec.ofFin (w := 4) x := by
    apply BitVec.eq_of_getLsbD_eq; intro i hi
    interval_cases i <;> simp [encodeXyN]
  rw [fieldX, this]

@[simp] theorem fieldY_encodeXyN (f : BitVec 4) (x y : Reg) (n : BitVec 4) : fieldY (encodeXyN f x y n) = y := by
  have : (encodeXyN f x y n).extractLsb' 4 4 = BitVec.ofFin (w := 4) y := by
    apply BitVec.eq_of_getLsbD_eq; intro i hi
    interval_cases i <;> simp [encodeXyN]
  rw [fieldY, this]

@[simp] theorem fieldN_encodeXyN (f : BitVec 4) (x y : Reg) (n : BitVec 4) : fieldN (encodeXyN f x y n) = n := by
  apply BitVec.eq_of_getLsbD_eq; intro i hi
  interval_cases i <;> simp [fieldN, encodeXyN]

/-- A register field, put back as four bits, is the four bits of the word. -/
theorem ofFin_fieldX (w : Word) : BitVec.ofFin (w := 4) (fieldX w) = w.extractLsb' 8 4 := rfl

theorem ofFin_fieldY (w : Word) : BitVec.ofFin (w := 4) (fieldY w) = w.extractLsb' 4 4 := rfl

/-- A word is its family and `nnn`. -/
theorem encodeNnn_fields (w : Word) : encodeNnn (fieldFamily w) (fieldNnn w) = w := by
  apply BitVec.eq_of_getLsbD_eq; intro i hi
  interval_cases i <;> simp [encodeNnn, fieldFamily, fieldNnn]

/-- A word is its family, `x` and `kk`. -/
theorem encodeXKk_fields (w : Word) : encodeXKk (fieldFamily w) (fieldX w) (fieldKk w) = w := by
  rw [encodeXKk, ofFin_fieldX]
  apply BitVec.eq_of_getLsbD_eq; intro i hi
  interval_cases i <;> simp [fieldFamily, fieldKk]

/-- A word is its family, `x`, `y` and `n`. -/
theorem encodeXyN_fields (w : Word) : encodeXyN (fieldFamily w) (fieldX w) (fieldY w) (fieldN w) = w := by
  rw [encodeXyN, ofFin_fieldX, ofFin_fieldY]
  apply BitVec.eq_of_getLsbD_eq; intro i hi
  interval_cases i <;> simp [fieldFamily, fieldN]

/-- The bytes of a word make the word (20 R53). -/
theorem wordOfBytes_bytes (w : Word) : wordOfBytes (w.extractLsb' 8 8) (w.extractLsb' 0 8) = w := by
  apply BitVec.eq_of_getLsbD_eq; intro i hi
  interval_cases i <;> simp [wordOfBytes]

/-- The sixteen values of a nibble. -/
theorem nibble_cases (f : BitVec 4) :
    f = 0 ∨ f = 1 ∨ f = 2 ∨ f = 3 ∨ f = 4 ∨ f = 5 ∨ f = 6 ∨ f = 7 ∨ f = 8 ∨ f = 9 ∨ f = 10 ∨ f = 11 ∨ f = 12 ∨
      f = 13 ∨ f = 14 ∨ f = 15 := by
  revert f; decide

end Sys2Proof
end

