-- ==== Sys2Proof/Laws/Display.lean ====
section
/-! SUPPORT. What drawing does to a cell. -/

namespace Sys2Proof.Machine

/-- A toggle flips its own cell and no other; both axes wrap. -/
theorem Screen.lit_toggle (fb : Screen) (row col r c : Nat) :
    (fb.toggle row col).lit r c =
      if r % 32 = row % 32 ∧ c % 64 = col % 64 then !fb.lit r c else fb.lit r c := by
  simp only [Screen.lit, Screen.toggle, Vector.getElem_set]
  by_cases hr : row % 32 = r % 32
  · by_cases hc : col % 64 = c % 64
    · simp [hr, hc]
    · simp [hr, hc, Ne.symm hc]
  · simp [hr, Ne.symm hr]

/-- Two framebuffers with the same cells are the same. -/
theorem Screen.ext_lit {fb gb : Screen} (h : ∀ r c, fb.lit r c = gb.lit r c) : fb = gb := by
  apply Vector.ext; intro r hr
  apply Vector.ext; intro c hc
  have := h r c
  simpa only [Screen.lit, Nat.mod_eq_of_lt hr, Nat.mod_eq_of_lt hc] using this

@[simp] theorem Screen.lit_blank (r c : Nat) : Screen.blank.lit r c = false := by
  simp [Screen.lit, Screen.blank]

/-- One sprite bit: its cell is XORed with the bit. -/
theorem drawBit_lit (bit : Bool) (row col : Nat) (d : Screen × Bool) (r c : Nat) :
    (drawBit bit row col d).1.lit r c =
      (d.1.lit r c ^^ (bit && decide (r % 32 = row % 32 ∧ c % 64 = col % 64))) := by
  cases bit
  · simp [drawBit]
  · simp only [drawBit, if_true, Screen.lit_toggle]
    split <;> simp [*]

/-- One sprite bit: a collision is a set bit on a lit cell. -/
theorem drawBit_hit (bit : Bool) (row col : Nat) (d : Screen × Bool) :
    (drawBit bit row col d).2 = (d.2 || (bit && d.1.lit row col)) := by
  cases bit <;> simp [drawBit]

end Sys2Proof.Machine
end

