-- ==== Sys2Proof/Laws/Memory.lean ====
section
/-! SUPPORT. What memory's two operations do: a read after a write, the canonical form every operation keeps, and
stores of several bytes. -/

namespace Sys2Proof.Machine

/-! ## A read after a write -/

theorem Memory.lookup_insert_same (m : Memory) (a : Nat) (b : Byte) : (m.insert a b).lookup a = b := by
  induction m with
  | nil => simp [Memory.insert, Memory.lookup]
  | cons c rest ih =>
    obtain ⟨k, d⟩ := c
    simp only [Memory.insert]
    split
    · simp [Memory.lookup]
    · split
      · simp [Memory.lookup]
      · simp [Memory.lookup, ih, Ne.symm ‹_›]

theorem Memory.lookup_insert_ne (m : Memory) {a k : Nat} (b : Byte) (h : k ≠ a) :
    (m.insert a b).lookup k = m.lookup k := by
  induction m with
  | nil => simp [Memory.insert, Memory.lookup, h.symm]
  | cons c rest ih =>
    obtain ⟨j, d⟩ := c
    simp only [Memory.insert]
    split
    · simp [Memory.lookup, h.symm]
    · split
      · subst_vars; simp [Memory.lookup, h.symm]
      · simp [Memory.lookup, ih]

theorem Memory.lookup_erase_ne (m : Memory) {a k : Nat} (h : k ≠ a) : (m.erase a).lookup k = m.lookup k := by
  induction m with
  | nil => rfl
  | cons c rest ih =>
    obtain ⟨j, d⟩ := c
    simp only [Memory.erase]
    split
    · subst_vars; simp [Memory.lookup, h.symm]
    · simp [Memory.lookup, ih]

/-- An address below every listed one reads as unlisted. -/
theorem Memory.lookup_of_lt (m : Memory) {a : Nat} (h : ∀ c ∈ m, a < c.1) : m.lookup a = unlistedByte a := by
  induction m with
  | nil => rfl
  | cons c rest ih =>
    have hc := h c (by simp)
    rw [Memory.lookup, if_neg (by omega), ih fun d hd => h d (by simp [hd])]

/-- The canonical form of a list with a first cell, as a proposition. -/
theorem Memory.wf_cons (k : Nat) (b : Byte) (rest : Memory) :
    Memory.wf ((k, b) :: rest) = true ↔
      k < 4096 ∧ b ≠ unlistedByte k ∧ (∀ c ∈ rest, k < c.1) ∧ Memory.wf rest = true := by
  simp [Memory.wf, and_assoc]

theorem Memory.lookup_erase_same (m : Memory) {a : Nat} (h : m.wf = true) :
    (m.erase a).lookup a = unlistedByte a := by
  induction m with
  | nil => rfl
  | cons c rest ih =>
    obtain ⟨k, d⟩ := c
    obtain ⟨-, -, hlt, hrest⟩ := (Memory.wf_cons k d rest).1 h
    simp only [Memory.erase]
    split
    · subst_vars; exact Memory.lookup_of_lt rest hlt
    · rw [Memory.lookup, if_neg (Ne.symm ‹_›), ih hrest]

/-- A byte reads as it was written. -/
theorem Memory.read_write_same (m : Memory) (a : Addr) (b : Byte) (h : m.wf = true) : (m.write a b).read a = b := by
  simp only [Memory.read, Memory.write]
  split
  · rw [Memory.lookup_erase_same m h, ‹b = _›]
  · exact Memory.lookup_insert_same m _ _

/-- A write leaves every other byte alone. -/
theorem Memory.read_write_ne (m : Memory) {a k : Addr} (b : Byte) (h : k ≠ a) : (m.write a b).read k = m.read k := by
  have hk : k.toNat ≠ a.toNat := fun e => h (BitVec.eq_of_toNat_eq e)
  simp only [Memory.read, Memory.write]
  split
  · exact Memory.lookup_erase_ne m hk
  · exact Memory.lookup_insert_ne m _ hk

/-! ## The canonical form -/

theorem Memory.mem_insert {m : Memory} {a : Nat} {b : Byte} {c : Host.Cell} (h : c ∈ m.insert a b) :
    c = (a, b) ∨ c ∈ m := by
  induction m with
  | nil => simpa [Memory.insert] using h
  | cons d rest ih =>
    obtain ⟨k, e⟩ := d
    simp only [Memory.insert] at h
    split at h
    · simpa using h
    · split at h
      · rcases List.mem_cons.1 h with h | h <;> simp [h]
      · rcases List.mem_cons.1 h with h | h
        · simp [h]
        · rcases ih h with h | h <;> simp [h]

theorem Memory.mem_erase {m : Memory} {a : Nat} {c : Host.Cell} (h : c ∈ m.erase a) : c ∈ m := by
  induction m with
  | nil => exact h
  | cons d rest ih =>
    obtain ⟨k, e⟩ := d
    simp only [Memory.erase] at h
    split at h
    · simp [h]
    · rcases List.mem_cons.1 h with h | h
      · simp [h]
      · simp [ih h]

theorem Memory.wf_insert (m : Memory) {a : Nat} {b : Byte} (ha : a < 4096) (hb : b ≠ unlistedByte a)
    (h : m.wf = true) : (m.insert a b).wf = true := by
  induction m with
  | nil => simp [Memory.insert, Memory.wf, ha, hb]
  | cons c rest ih =>
    obtain ⟨k, d⟩ := c
    obtain ⟨hk, hd, hlt, hrest⟩ := (Memory.wf_cons k d rest).1 h
    simp only [Memory.insert]
    split
    · refine (Memory.wf_cons _ _ _).2 ⟨ha, hb, fun c hc => ?_, h⟩
      rcases List.mem_cons.1 hc with rfl | hc
      · assumption
      · exact Nat.lt_trans ‹a < k› (hlt c hc)
    · split
      · subst_vars; exact (Memory.wf_cons _ _ _).2 ⟨hk, hb, hlt, hrest⟩
      · refine (Memory.wf_cons _ _ _).2 ⟨hk, hd, fun c hc => ?_, ih hrest⟩
        rcases Memory.mem_insert hc with rfl | hc
        · show k < a
          omega
        · exact hlt c hc

theorem Memory.wf_erase (m : Memory) {a : Nat} (h : m.wf = true) : (m.erase a).wf = true := by
  induction m with
  | nil => rfl
  | cons c rest ih =>
    obtain ⟨k, d⟩ := c
    obtain ⟨hk, hd, hlt, hrest⟩ := (Memory.wf_cons k d rest).1 h
    simp only [Memory.erase]
    split
    · exact hrest
    · exact (Memory.wf_cons _ _ _).2 ⟨hk, hd, fun c hc => hlt c (Memory.mem_erase hc), ih hrest⟩

/-- A write keeps the canonical form. -/
theorem Memory.wf_write (m : Memory) (a : Addr) (b : Byte) (h : m.wf = true) : (m.write a b).wf = true := by
  simp only [Memory.write]
  split
  · exact Memory.wf_erase m h
  · exact Memory.wf_insert m a.isLt ‹_› h

/-- Memory as reset leaves it is in canonical form. -/
theorem Memory.wf_reset : State.reset.mem.wf = true := rfl

/-! ## Stores of several bytes -/

/-- A store of several bytes keeps the canonical form. -/
theorem storeBytes_wf (base : Word) (bs : List Byte) (k : Nat) (m : Memory) (h : m.wf = true) :
    (storeBytes base k bs m).wf = true := by
  induction bs generalizing k m with
  | nil => exact h
  | cons b bs ih => exact ih _ _ (Memory.wf_write _ _ _ h)

/-- A store of several bytes leaves every byte outside its addresses alone. -/
theorem storeBytes_read_outside (base : Word) (bs : List Byte) (k : Nat) (m : Memory) (a : Addr)
    (h : ∀ j < bs.length, a ≠ dataAddr base (k + j)) : (storeBytes base k bs m).read a = m.read a := by
  induction bs generalizing k m with
  | nil => rfl
  | cons b bs ih =>
    rw [storeBytes, ih (k + 1) _ fun j hj => ?_]
    · exact Memory.read_write_ne m b (h 0 (by simp))
    · have := h (j + 1) (by simpa using hj)
      rwa [show k + (j + 1) = k + 1 + j by omega] at this

/-- Two offsets less than 4096 apart name different cells. -/
theorem dataAddr_ne (base : Word) {j k : Nat} (h : j < k) (hk : k < j + 4096) : dataAddr base j ≠ dataAddr base k := by
  intro e
  have := congrArg BitVec.toNat e
  simp only [dataAddr, BitVec.toNat_ofNat] at this
  omega

/-- A store of several bytes puts each at its address. -/
theorem storeBytes_read_inside (base : Word) (bs : List Byte) (k : Nat) (m : Memory) (hwf : m.wf = true)
    (hlen : bs.length ≤ 4096) (j : Nat) (hj : j < bs.length) :
    (storeBytes base k bs m).read (dataAddr base (k + j)) = bs[j] := by
  induction bs generalizing k m j with
  | nil => simp at hj
  | cons b bs ih =>
    simp only [List.length_cons] at hlen hj
    rw [storeBytes]
    cases j with
    | zero =>
      rw [storeBytes_read_outside]
      · simpa using Memory.read_write_same m (dataAddr base k) b hwf
      · intro j hj; exact dataAddr_ne base (by omega) (by omega)
    | succ j =>
      rw [show k + (j + 1) = k + 1 + j by omega]
      simpa using ih (k + 1) _ (Memory.wf_write _ _ _ hwf) (by omega) j (by omega)

end Sys2Proof.Machine
end

