-- ==== Sys2Proof/Laws/State.lean ====
section
/-! SUPPORT. One lemma per field of State per update, so that no later proof unfolds a record update; and reading a
register after a write. -/

namespace Sys2Proof.Machine.State

variable (s : State)

/-! ### setV -/

@[simp] theorem setV_params (x : Reg) (b : Byte) : (s.setV x b).params = s.params := rfl
@[simp] theorem setV_mem (x : Reg) (b : Byte) : (s.setV x b).mem = s.mem := rfl
@[simp] theorem setV_v (x : Reg) (b : Byte) : (s.setV x b).v = s.v.set x.val b := rfl
@[simp] theorem setV_index (x : Reg) (b : Byte) : (s.setV x b).index = s.index := rfl
@[simp] theorem setV_pc (x : Reg) (b : Byte) : (s.setV x b).pc = s.pc := rfl
@[simp] theorem setV_stack (x : Reg) (b : Byte) : (s.setV x b).stack = s.stack := rfl
@[simp] theorem setV_sp (x : Reg) (b : Byte) : (s.setV x b).sp = s.sp := rfl
@[simp] theorem setV_dt (x : Reg) (b : Byte) : (s.setV x b).dt = s.dt := rfl
@[simp] theorem setV_st (x : Reg) (b : Byte) : (s.setV x b).st = s.st := rfl
@[simp] theorem setV_key (x : Reg) (b : Byte) : (s.setV x b).key = s.key := rfl
@[simp] theorem setV_fb (x : Reg) (b : Byte) : (s.setV x b).fb = s.fb := rfl
@[simp] theorem setV_halted (x : Reg) (b : Byte) : (s.setV x b).halted = s.halted := rfl
@[simp] theorem setV_faultCode (x : Reg) (b : Byte) : (s.setV x b).faultCode = s.faultCode := rfl
@[simp] theorem setV_faultPc (x : Reg) (b : Byte) : (s.setV x b).faultPc = s.faultPc := rfl
@[simp] theorem setV_faultWord (x : Reg) (b : Byte) : (s.setV x b).faultWord = s.faultWord := rfl
@[simp] theorem setV_report (x : Reg) (b : Byte) : (s.setV x b).report = s.report := rfl
@[simp] theorem setV_draws (x : Reg) (b : Byte) : (s.setV x b).draws = s.draws := rfl

/-! ### setRegs -/

@[simp] theorem setRegs_params (v : Vector Byte 16) : (s.setRegs v).params = s.params := rfl
@[simp] theorem setRegs_mem (v : Vector Byte 16) : (s.setRegs v).mem = s.mem := rfl
@[simp] theorem setRegs_v (v : Vector Byte 16) : (s.setRegs v).v = v := rfl
@[simp] theorem setRegs_index (v : Vector Byte 16) : (s.setRegs v).index = s.index := rfl
@[simp] theorem setRegs_pc (v : Vector Byte 16) : (s.setRegs v).pc = s.pc := rfl
@[simp] theorem setRegs_stack (v : Vector Byte 16) : (s.setRegs v).stack = s.stack := rfl
@[simp] theorem setRegs_sp (v : Vector Byte 16) : (s.setRegs v).sp = s.sp := rfl
@[simp] theorem setRegs_dt (v : Vector Byte 16) : (s.setRegs v).dt = s.dt := rfl
@[simp] theorem setRegs_st (v : Vector Byte 16) : (s.setRegs v).st = s.st := rfl
@[simp] theorem setRegs_key (v : Vector Byte 16) : (s.setRegs v).key = s.key := rfl
@[simp] theorem setRegs_fb (v : Vector Byte 16) : (s.setRegs v).fb = s.fb := rfl
@[simp] theorem setRegs_halted (v : Vector Byte 16) : (s.setRegs v).halted = s.halted := rfl
@[simp] theorem setRegs_faultCode (v : Vector Byte 16) : (s.setRegs v).faultCode = s.faultCode := rfl
@[simp] theorem setRegs_faultPc (v : Vector Byte 16) : (s.setRegs v).faultPc = s.faultPc := rfl
@[simp] theorem setRegs_faultWord (v : Vector Byte 16) : (s.setRegs v).faultWord = s.faultWord := rfl
@[simp] theorem setRegs_report (v : Vector Byte 16) : (s.setRegs v).report = s.report := rfl
@[simp] theorem setRegs_draws (v : Vector Byte 16) : (s.setRegs v).draws = s.draws := rfl

/-! ### setIndex -/

@[simp] theorem setIndex_params (w : Word) : (s.setIndex w).params = s.params := rfl
@[simp] theorem setIndex_mem (w : Word) : (s.setIndex w).mem = s.mem := rfl
@[simp] theorem setIndex_v (w : Word) : (s.setIndex w).v = s.v := rfl
@[simp] theorem setIndex_index (w : Word) : (s.setIndex w).index = w := rfl
@[simp] theorem setIndex_pc (w : Word) : (s.setIndex w).pc = s.pc := rfl
@[simp] theorem setIndex_stack (w : Word) : (s.setIndex w).stack = s.stack := rfl
@[simp] theorem setIndex_sp (w : Word) : (s.setIndex w).sp = s.sp := rfl
@[simp] theorem setIndex_dt (w : Word) : (s.setIndex w).dt = s.dt := rfl
@[simp] theorem setIndex_st (w : Word) : (s.setIndex w).st = s.st := rfl
@[simp] theorem setIndex_key (w : Word) : (s.setIndex w).key = s.key := rfl
@[simp] theorem setIndex_fb (w : Word) : (s.setIndex w).fb = s.fb := rfl
@[simp] theorem setIndex_halted (w : Word) : (s.setIndex w).halted = s.halted := rfl
@[simp] theorem setIndex_faultCode (w : Word) : (s.setIndex w).faultCode = s.faultCode := rfl
@[simp] theorem setIndex_faultPc (w : Word) : (s.setIndex w).faultPc = s.faultPc := rfl
@[simp] theorem setIndex_faultWord (w : Word) : (s.setIndex w).faultWord = s.faultWord := rfl
@[simp] theorem setIndex_report (w : Word) : (s.setIndex w).report = s.report := rfl
@[simp] theorem setIndex_draws (w : Word) : (s.setIndex w).draws = s.draws := rfl

/-! ### setPc -/

@[simp] theorem setPc_params (w : Word) : (s.setPc w).params = s.params := rfl
@[simp] theorem setPc_mem (w : Word) : (s.setPc w).mem = s.mem := rfl
@[simp] theorem setPc_v (w : Word) : (s.setPc w).v = s.v := rfl
@[simp] theorem setPc_index (w : Word) : (s.setPc w).index = s.index := rfl
@[simp] theorem setPc_pc (w : Word) : (s.setPc w).pc = w := rfl
@[simp] theorem setPc_stack (w : Word) : (s.setPc w).stack = s.stack := rfl
@[simp] theorem setPc_sp (w : Word) : (s.setPc w).sp = s.sp := rfl
@[simp] theorem setPc_dt (w : Word) : (s.setPc w).dt = s.dt := rfl
@[simp] theorem setPc_st (w : Word) : (s.setPc w).st = s.st := rfl
@[simp] theorem setPc_key (w : Word) : (s.setPc w).key = s.key := rfl
@[simp] theorem setPc_fb (w : Word) : (s.setPc w).fb = s.fb := rfl
@[simp] theorem setPc_halted (w : Word) : (s.setPc w).halted = s.halted := rfl
@[simp] theorem setPc_faultCode (w : Word) : (s.setPc w).faultCode = s.faultCode := rfl
@[simp] theorem setPc_faultPc (w : Word) : (s.setPc w).faultPc = s.faultPc := rfl
@[simp] theorem setPc_faultWord (w : Word) : (s.setPc w).faultWord = s.faultWord := rfl
@[simp] theorem setPc_report (w : Word) : (s.setPc w).report = s.report := rfl
@[simp] theorem setPc_draws (w : Word) : (s.setPc w).draws = s.draws := rfl

/-! ### setMem -/

@[simp] theorem setMem_params (m : Memory) : (s.setMem m).params = s.params := rfl
@[simp] theorem setMem_mem (m : Memory) : (s.setMem m).mem = m := rfl
@[simp] theorem setMem_v (m : Memory) : (s.setMem m).v = s.v := rfl
@[simp] theorem setMem_index (m : Memory) : (s.setMem m).index = s.index := rfl
@[simp] theorem setMem_pc (m : Memory) : (s.setMem m).pc = s.pc := rfl
@[simp] theorem setMem_stack (m : Memory) : (s.setMem m).stack = s.stack := rfl
@[simp] theorem setMem_sp (m : Memory) : (s.setMem m).sp = s.sp := rfl
@[simp] theorem setMem_dt (m : Memory) : (s.setMem m).dt = s.dt := rfl
@[simp] theorem setMem_st (m : Memory) : (s.setMem m).st = s.st := rfl
@[simp] theorem setMem_key (m : Memory) : (s.setMem m).key = s.key := rfl
@[simp] theorem setMem_fb (m : Memory) : (s.setMem m).fb = s.fb := rfl
@[simp] theorem setMem_halted (m : Memory) : (s.setMem m).halted = s.halted := rfl
@[simp] theorem setMem_faultCode (m : Memory) : (s.setMem m).faultCode = s.faultCode := rfl
@[simp] theorem setMem_faultPc (m : Memory) : (s.setMem m).faultPc = s.faultPc := rfl
@[simp] theorem setMem_faultWord (m : Memory) : (s.setMem m).faultWord = s.faultWord := rfl
@[simp] theorem setMem_report (m : Memory) : (s.setMem m).report = s.report := rfl
@[simp] theorem setMem_draws (m : Memory) : (s.setMem m).draws = s.draws := rfl

/-! ### setCalls -/

@[simp] theorem setCalls_params (k : Vector Word 16) (p : Fin 17) : (s.setCalls k p).params = s.params := rfl
@[simp] theorem setCalls_mem (k : Vector Word 16) (p : Fin 17) : (s.setCalls k p).mem = s.mem := rfl
@[simp] theorem setCalls_v (k : Vector Word 16) (p : Fin 17) : (s.setCalls k p).v = s.v := rfl
@[simp] theorem setCalls_index (k : Vector Word 16) (p : Fin 17) : (s.setCalls k p).index = s.index := rfl
@[simp] theorem setCalls_pc (k : Vector Word 16) (p : Fin 17) : (s.setCalls k p).pc = s.pc := rfl
@[simp] theorem setCalls_stack (k : Vector Word 16) (p : Fin 17) : (s.setCalls k p).stack = k := rfl
@[simp] theorem setCalls_sp (k : Vector Word 16) (p : Fin 17) : (s.setCalls k p).sp = p := rfl
@[simp] theorem setCalls_dt (k : Vector Word 16) (p : Fin 17) : (s.setCalls k p).dt = s.dt := rfl
@[simp] theorem setCalls_st (k : Vector Word 16) (p : Fin 17) : (s.setCalls k p).st = s.st := rfl
@[simp] theorem setCalls_key (k : Vector Word 16) (p : Fin 17) : (s.setCalls k p).key = s.key := rfl
@[simp] theorem setCalls_fb (k : Vector Word 16) (p : Fin 17) : (s.setCalls k p).fb = s.fb := rfl
@[simp] theorem setCalls_halted (k : Vector Word 16) (p : Fin 17) : (s.setCalls k p).halted = s.halted := rfl
@[simp] theorem setCalls_faultCode (k : Vector Word 16) (p : Fin 17) : (s.setCalls k p).faultCode = s.faultCode := rfl
@[simp] theorem setCalls_faultPc (k : Vector Word 16) (p : Fin 17) : (s.setCalls k p).faultPc = s.faultPc := rfl
@[simp] theorem setCalls_faultWord (k : Vector Word 16) (p : Fin 17) : (s.setCalls k p).faultWord = s.faultWord := rfl
@[simp] theorem setCalls_report (k : Vector Word 16) (p : Fin 17) : (s.setCalls k p).report = s.report := rfl
@[simp] theorem setCalls_draws (k : Vector Word 16) (p : Fin 17) : (s.setCalls k p).draws = s.draws := rfl

/-! ### setTimers -/

@[simp] theorem setTimers_params (d t : Byte) : (s.setTimers d t).params = s.params := rfl
@[simp] theorem setTimers_mem (d t : Byte) : (s.setTimers d t).mem = s.mem := rfl
@[simp] theorem setTimers_v (d t : Byte) : (s.setTimers d t).v = s.v := rfl
@[simp] theorem setTimers_index (d t : Byte) : (s.setTimers d t).index = s.index := rfl
@[simp] theorem setTimers_pc (d t : Byte) : (s.setTimers d t).pc = s.pc := rfl
@[simp] theorem setTimers_stack (d t : Byte) : (s.setTimers d t).stack = s.stack := rfl
@[simp] theorem setTimers_sp (d t : Byte) : (s.setTimers d t).sp = s.sp := rfl
@[simp] theorem setTimers_dt (d t : Byte) : (s.setTimers d t).dt = d := rfl
@[simp] theorem setTimers_st (d t : Byte) : (s.setTimers d t).st = t := rfl
@[simp] theorem setTimers_key (d t : Byte) : (s.setTimers d t).key = s.key := rfl
@[simp] theorem setTimers_fb (d t : Byte) : (s.setTimers d t).fb = s.fb := rfl
@[simp] theorem setTimers_halted (d t : Byte) : (s.setTimers d t).halted = s.halted := rfl
@[simp] theorem setTimers_faultCode (d t : Byte) : (s.setTimers d t).faultCode = s.faultCode := rfl
@[simp] theorem setTimers_faultPc (d t : Byte) : (s.setTimers d t).faultPc = s.faultPc := rfl
@[simp] theorem setTimers_faultWord (d t : Byte) : (s.setTimers d t).faultWord = s.faultWord := rfl
@[simp] theorem setTimers_report (d t : Byte) : (s.setTimers d t).report = s.report := rfl
@[simp] theorem setTimers_draws (d t : Byte) : (s.setTimers d t).draws = s.draws := rfl

/-! ### setKeys -/

@[simp] theorem setKeys_params (k : Vector Bool 16) : (s.setKeys k).params = s.params := rfl
@[simp] theorem setKeys_mem (k : Vector Bool 16) : (s.setKeys k).mem = s.mem := rfl
@[simp] theorem setKeys_v (k : Vector Bool 16) : (s.setKeys k).v = s.v := rfl
@[simp] theorem setKeys_index (k : Vector Bool 16) : (s.setKeys k).index = s.index := rfl
@[simp] theorem setKeys_pc (k : Vector Bool 16) : (s.setKeys k).pc = s.pc := rfl
@[simp] theorem setKeys_stack (k : Vector Bool 16) : (s.setKeys k).stack = s.stack := rfl
@[simp] theorem setKeys_sp (k : Vector Bool 16) : (s.setKeys k).sp = s.sp := rfl
@[simp] theorem setKeys_dt (k : Vector Bool 16) : (s.setKeys k).dt = s.dt := rfl
@[simp] theorem setKeys_st (k : Vector Bool 16) : (s.setKeys k).st = s.st := rfl
@[simp] theorem setKeys_key (k : Vector Bool 16) : (s.setKeys k).key = k := rfl
@[simp] theorem setKeys_fb (k : Vector Bool 16) : (s.setKeys k).fb = s.fb := rfl
@[simp] theorem setKeys_halted (k : Vector Bool 16) : (s.setKeys k).halted = s.halted := rfl
@[simp] theorem setKeys_faultCode (k : Vector Bool 16) : (s.setKeys k).faultCode = s.faultCode := rfl
@[simp] theorem setKeys_faultPc (k : Vector Bool 16) : (s.setKeys k).faultPc = s.faultPc := rfl
@[simp] theorem setKeys_faultWord (k : Vector Bool 16) : (s.setKeys k).faultWord = s.faultWord := rfl
@[simp] theorem setKeys_report (k : Vector Bool 16) : (s.setKeys k).report = s.report := rfl
@[simp] theorem setKeys_draws (k : Vector Bool 16) : (s.setKeys k).draws = s.draws := rfl

/-! ### setScreen -/

@[simp] theorem setScreen_params (f : Screen) : (s.setScreen f).params = s.params := rfl
@[simp] theorem setScreen_mem (f : Screen) : (s.setScreen f).mem = s.mem := rfl
@[simp] theorem setScreen_v (f : Screen) : (s.setScreen f).v = s.v := rfl
@[simp] theorem setScreen_index (f : Screen) : (s.setScreen f).index = s.index := rfl
@[simp] theorem setScreen_pc (f : Screen) : (s.setScreen f).pc = s.pc := rfl
@[simp] theorem setScreen_stack (f : Screen) : (s.setScreen f).stack = s.stack := rfl
@[simp] theorem setScreen_sp (f : Screen) : (s.setScreen f).sp = s.sp := rfl
@[simp] theorem setScreen_dt (f : Screen) : (s.setScreen f).dt = s.dt := rfl
@[simp] theorem setScreen_st (f : Screen) : (s.setScreen f).st = s.st := rfl
@[simp] theorem setScreen_key (f : Screen) : (s.setScreen f).key = s.key := rfl
@[simp] theorem setScreen_fb (f : Screen) : (s.setScreen f).fb = f := rfl
@[simp] theorem setScreen_halted (f : Screen) : (s.setScreen f).halted = s.halted := rfl
@[simp] theorem setScreen_faultCode (f : Screen) : (s.setScreen f).faultCode = s.faultCode := rfl
@[simp] theorem setScreen_faultPc (f : Screen) : (s.setScreen f).faultPc = s.faultPc := rfl
@[simp] theorem setScreen_faultWord (f : Screen) : (s.setScreen f).faultWord = s.faultWord := rfl
@[simp] theorem setScreen_report (f : Screen) : (s.setScreen f).report = s.report := rfl
@[simp] theorem setScreen_draws (f : Screen) : (s.setScreen f).draws = s.draws := rfl

/-! ### setFaultStatus -/

@[simp] theorem setFaultStatus_params (h : Bool) (c : FaultCode) (p w : Word) : (s.setFaultStatus h c p w).params = s.params := rfl
@[simp] theorem setFaultStatus_mem (h : Bool) (c : FaultCode) (p w : Word) : (s.setFaultStatus h c p w).mem = s.mem := rfl
@[simp] theorem setFaultStatus_v (h : Bool) (c : FaultCode) (p w : Word) : (s.setFaultStatus h c p w).v = s.v := rfl
@[simp] theorem setFaultStatus_index (h : Bool) (c : FaultCode) (p w : Word) : (s.setFaultStatus h c p w).index = s.index := rfl
@[simp] theorem setFaultStatus_pc (h : Bool) (c : FaultCode) (p w : Word) : (s.setFaultStatus h c p w).pc = s.pc := rfl
@[simp] theorem setFaultStatus_stack (h : Bool) (c : FaultCode) (p w : Word) : (s.setFaultStatus h c p w).stack = s.stack := rfl
@[simp] theorem setFaultStatus_sp (h : Bool) (c : FaultCode) (p w : Word) : (s.setFaultStatus h c p w).sp = s.sp := rfl
@[simp] theorem setFaultStatus_dt (h : Bool) (c : FaultCode) (p w : Word) : (s.setFaultStatus h c p w).dt = s.dt := rfl
@[simp] theorem setFaultStatus_st (h : Bool) (c : FaultCode) (p w : Word) : (s.setFaultStatus h c p w).st = s.st := rfl
@[simp] theorem setFaultStatus_key (h : Bool) (c : FaultCode) (p w : Word) : (s.setFaultStatus h c p w).key = s.key := rfl
@[simp] theorem setFaultStatus_fb (h : Bool) (c : FaultCode) (p w : Word) : (s.setFaultStatus h c p w).fb = s.fb := rfl
@[simp] theorem setFaultStatus_halted (h : Bool) (c : FaultCode) (p w : Word) : (s.setFaultStatus h c p w).halted = h := rfl
@[simp] theorem setFaultStatus_faultCode (h : Bool) (c : FaultCode) (p w : Word) : (s.setFaultStatus h c p w).faultCode = c := rfl
@[simp] theorem setFaultStatus_faultPc (h : Bool) (c : FaultCode) (p w : Word) : (s.setFaultStatus h c p w).faultPc = p := rfl
@[simp] theorem setFaultStatus_faultWord (h : Bool) (c : FaultCode) (p w : Word) : (s.setFaultStatus h c p w).faultWord = w := rfl
@[simp] theorem setFaultStatus_report (h : Bool) (c : FaultCode) (p w : Word) : (s.setFaultStatus h c p w).report = s.report := rfl
@[simp] theorem setFaultStatus_draws (h : Bool) (c : FaultCode) (p w : Word) : (s.setFaultStatus h c p w).draws = s.draws := rfl

/-! ### setReport -/

@[simp] theorem setReport_params (r : Report) : (s.setReport r).params = s.params := rfl
@[simp] theorem setReport_mem (r : Report) : (s.setReport r).mem = s.mem := rfl
@[simp] theorem setReport_v (r : Report) : (s.setReport r).v = s.v := rfl
@[simp] theorem setReport_index (r : Report) : (s.setReport r).index = s.index := rfl
@[simp] theorem setReport_pc (r : Report) : (s.setReport r).pc = s.pc := rfl
@[simp] theorem setReport_stack (r : Report) : (s.setReport r).stack = s.stack := rfl
@[simp] theorem setReport_sp (r : Report) : (s.setReport r).sp = s.sp := rfl
@[simp] theorem setReport_dt (r : Report) : (s.setReport r).dt = s.dt := rfl
@[simp] theorem setReport_st (r : Report) : (s.setReport r).st = s.st := rfl
@[simp] theorem setReport_key (r : Report) : (s.setReport r).key = s.key := rfl
@[simp] theorem setReport_fb (r : Report) : (s.setReport r).fb = s.fb := rfl
@[simp] theorem setReport_halted (r : Report) : (s.setReport r).halted = s.halted := rfl
@[simp] theorem setReport_faultCode (r : Report) : (s.setReport r).faultCode = s.faultCode := rfl
@[simp] theorem setReport_faultPc (r : Report) : (s.setReport r).faultPc = s.faultPc := rfl
@[simp] theorem setReport_faultWord (r : Report) : (s.setReport r).faultWord = s.faultWord := rfl
@[simp] theorem setReport_report (r : Report) : (s.setReport r).report = r := rfl
@[simp] theorem setReport_draws (r : Report) : (s.setReport r).draws = s.draws := rfl

/-! ### setDraws -/

@[simp] theorem setDraws_params (n : Nat) : (s.setDraws n).params = s.params := rfl
@[simp] theorem setDraws_mem (n : Nat) : (s.setDraws n).mem = s.mem := rfl
@[simp] theorem setDraws_v (n : Nat) : (s.setDraws n).v = s.v := rfl
@[simp] theorem setDraws_index (n : Nat) : (s.setDraws n).index = s.index := rfl
@[simp] theorem setDraws_pc (n : Nat) : (s.setDraws n).pc = s.pc := rfl
@[simp] theorem setDraws_stack (n : Nat) : (s.setDraws n).stack = s.stack := rfl
@[simp] theorem setDraws_sp (n : Nat) : (s.setDraws n).sp = s.sp := rfl
@[simp] theorem setDraws_dt (n : Nat) : (s.setDraws n).dt = s.dt := rfl
@[simp] theorem setDraws_st (n : Nat) : (s.setDraws n).st = s.st := rfl
@[simp] theorem setDraws_key (n : Nat) : (s.setDraws n).key = s.key := rfl
@[simp] theorem setDraws_fb (n : Nat) : (s.setDraws n).fb = s.fb := rfl
@[simp] theorem setDraws_halted (n : Nat) : (s.setDraws n).halted = s.halted := rfl
@[simp] theorem setDraws_faultCode (n : Nat) : (s.setDraws n).faultCode = s.faultCode := rfl
@[simp] theorem setDraws_faultPc (n : Nat) : (s.setDraws n).faultPc = s.faultPc := rfl
@[simp] theorem setDraws_faultWord (n : Nat) : (s.setDraws n).faultWord = s.faultWord := rfl
@[simp] theorem setDraws_report (n : Nat) : (s.setDraws n).report = s.report := rfl
@[simp] theorem setDraws_draws (n : Nat) : (s.setDraws n).draws = n := rfl

/-! ### Reading a register after an update -/

theorem getV_setV (x r : Reg) (b : Byte) : (s.setV x b).getV r = if r = x then b else s.getV r := by
  simp only [getV, setV_v, Fin.getElem_fin, Vector.getElem_set, Fin.ext_iff, eq_comm]

@[simp] theorem getV_setV_same (x : Reg) (b : Byte) : (s.setV x b).getV x = b := by simp [getV_setV]

theorem getV_setV_ne {x r : Reg} (h : r ≠ x) (b : Byte) : (s.setV x b).getV r = s.getV r := by simp [getV_setV, h]

@[simp] theorem getV_setRegs (v : Vector Byte 16) (r : Reg) : (s.setRegs v).getV r = v[r] := rfl

@[simp] theorem getV_setIndex (w : Word) (x : Reg) : (s.setIndex w).getV x = s.getV x := rfl
@[simp] theorem getV_setPc (w : Word) (x : Reg) : (s.setPc w).getV x = s.getV x := rfl
@[simp] theorem getV_setMem (m : Memory) (x : Reg) : (s.setMem m).getV x = s.getV x := rfl
@[simp] theorem getV_setCalls (k : Vector Word 16) (p : Fin 17) (x : Reg) : (s.setCalls k p).getV x = s.getV x := rfl
@[simp] theorem getV_setTimers (d t : Byte) (x : Reg) : (s.setTimers d t).getV x = s.getV x := rfl
@[simp] theorem getV_setKeys (k : Vector Bool 16) (x : Reg) : (s.setKeys k).getV x = s.getV x := rfl
@[simp] theorem getV_setScreen (f : Screen) (x : Reg) : (s.setScreen f).getV x = s.getV x := rfl
@[simp] theorem getV_setFaultStatus (h : Bool) (c : FaultCode) (p w : Word) (x : Reg) : (s.setFaultStatus h c p w).getV x = s.getV x := rfl
@[simp] theorem getV_setReport (r : Report) (x : Reg) : (s.setReport r).getV x = s.getV x := rfl
@[simp] theorem getV_setDraws (n : Nat) (x : Reg) : (s.setDraws n).getV x = s.getV x := rfl

end Sys2Proof.Machine.State
end

