-- ==== Sys2Proof/Laws/Ops.lean ====
section
/-! SUPPORT. One lemma per shared operation that says what it does, so that no later proof unfolds it. -/

namespace Sys2Proof.Machine

/-! ## Operands -/

theorem wraps_iff (base : Word) (count : Nat) :
    wraps base count = true ↔ 0 < count ∧ base.toNat + (count - 1) > 0xFFF := by
  simp only [wraps, List.any_eq_true, List.mem_range, decide_eq_true_eq]
  constructor
  · rintro ⟨k, hk, h⟩; omega
  · rintro ⟨hc, h⟩; exact ⟨count - 1, by omega, h⟩

/-- The lowest pressed key: it is pressed and no lower key is. -/
theorem firstKey_eq_some (key : Vector Bool 16) (k : Fin 16) :
    firstKey key = some k ↔ key[k] = true ∧ ∀ j < k, key[j] = false := by
  simp only [firstKey, List.find?_eq_some_iff_getElem, List.getElem_finRange, List.length_finRange]
  constructor
  · rintro ⟨hk, i, hi, rfl, hj⟩
    refine ⟨by simpa using hk, fun j hj' => ?_⟩
    simpa using hj j.val (by simpa [Fin.lt_def] using hj')
  · rintro ⟨hk, hj⟩
    refine ⟨hk, k.val, k.isLt, by simp, fun j hj' => ?_⟩
    simpa using hj ⟨j, by omega⟩ (by simpa [Fin.lt_def] using hj')

/-- No key is found exactly when none is pressed. -/
theorem firstKey_eq_none (key : Vector Bool 16) : firstKey key = none ↔ ∀ k : Fin 16, key[k] = false := by
  simp [firstKey]

@[simp] theorem decimalDigits_length (b : Byte) : (decimalDigits b).length = 3 := rfl

/-! ## Loads -/

@[simp] theorem loadBytes_length (m : Memory) (base : Word) (count : Nat) : (loadBytes m base count).length = count := by
  simp [loadBytes]

@[simp] theorem loadBytes_getElem (m : Memory) (base : Word) (count k : Nat) (h : k < (loadBytes m base count).length) :
    (loadBytes m base count)[k] = m.read (dataAddr base k) := by
  simp [loadBytes]

/-- A run of writes of `f r` to the registers `r` of a list leaves `f r` there and the others alone. -/
theorem foldl_set_getElem (f : Reg → Byte) (l : List Reg) (v : Vector Byte 16) (r : Reg) :
    (l.foldl (fun v (q : Reg) => v.set q.val (f q)) v)[r] = if r ∈ l then f r else v[r] := by
  induction l generalizing v with
  | nil => simp
  | cons q l ih =>
    rw [List.foldl_cons, ih]
    by_cases hq : r = q
    · subst hq; by_cases hl : r ∈ l <;> simp [hl]
    · have : q.val ≠ r.val := fun e => hq (Fin.ext e.symm)
      by_cases hl : r ∈ l <;> simp [hl, hq, this]

theorem mem_take_finRange (n : Nat) (r : Reg) : r ∈ (List.finRange 16).take n ↔ r.val < n := by
  simp only [List.mem_take_iff_getElem, List.getElem_finRange, List.length_finRange]
  constructor
  · rintro ⟨i, hi, rfl⟩; simp at hi ⊢; omega
  · intro h; exact ⟨r.val, by simp; omega, by simp⟩

/-- Each of V0 to Vx is loaded from its cell, and the registers above `x` are left alone. -/
theorem loadRegs_getElem (m : Memory) (base : Word) (x : Reg) (v : Vector Byte 16) (r : Reg) :
    (loadRegs m base x v)[r] = if r ≤ x then m.read (dataAddr base r.val) else v[r] := by
  rw [loadRegs, foldl_set_getElem (fun r => m.read (dataAddr base r.val))]
  simp only [mem_take_finRange, Nat.lt_succ_iff, Fin.le_def]

/-! ## The fetch -/

/-- The fetch reads a word exactly when `pc ≤ 0xFFE`, and it is the big-endian word at `pc`. -/
theorem fetch_eq_some (s : State) (w : Word) :
    s.fetch = some w ↔ s.pc.toNat ≤ 0xFFE ∧
      wordOfBytes (s.mem.read (dataAddr s.pc 0)) (s.mem.read (dataAddr s.pc 1)) = w := by
  simp only [State.fetch]
  split <;> simp [*]

theorem fetch_eq_none (s : State) : s.fetch = none ↔ 0xFFE < s.pc.toNat := by
  simp only [State.fetch]
  split <;> simp_all

/-- The fetch depends on `pc` and memory alone. -/
theorem fetch_congr {s t : State} (hp : t.pc = s.pc) (hm : t.mem = s.mem) : t.fetch = s.fetch := by
  simp only [State.fetch, hp, hm]

/-! ## The end of a step -/

/-- The end of a step changes nothing but the timers, and those only by the timer phase of a per-step block that is
not halted. -/
theorem endStep_eq (s : State) :
    endStep s = if s.halted = false ∧ s.params.timerSource = .perStep then timerPhase s else s := by
  simp only [endStep]
  cases s.halted <;> cases s.params.timerSource <;> simp

@[simp] theorem endStep_of_halted {s : State} (h : s.halted = true) : endStep s = s := by simp [endStep, h]

theorem endStep_fields (s : State) :
    (endStep s).params = s.params ∧ (endStep s).mem = s.mem ∧ (endStep s).v = s.v ∧ (endStep s).index = s.index ∧
    (endStep s).pc = s.pc ∧ (endStep s).stack = s.stack ∧ (endStep s).sp = s.sp ∧ (endStep s).key = s.key ∧
    (endStep s).fb = s.fb ∧ (endStep s).halted = s.halted ∧ (endStep s).faultCode = s.faultCode ∧
    (endStep s).faultPc = s.faultPc ∧ (endStep s).faultWord = s.faultWord ∧ (endStep s).report = s.report ∧
    (endStep s).draws = s.draws := by
  rw [endStep_eq]
  split <;> simp [timerPhase]

/-- A timer counted down is one less, and 0 stays 0. -/
theorem countDown_toNat (t : Byte) : (countDown t).toNat = t.toNat - 1 := by
  simp only [countDown]
  split
  · simp [*]
  · have : t.toNat ≠ 0 := fun e => ‹¬_› (BitVec.eq_of_toNat_eq e)
    rw [BitVec.toNat_sub_of_le (by simp [BitVec.le_def]; omega)]
    simp

theorem finishStep_eq_next (r : Result) (t : State) : finishStep r = .next t ↔ ∃ u, r = .next u ∧ t = endStep u := by
  cases r <;> simp only [finishStep, Host.Outcome.next.injEq, reduceCtorEq, false_and, exists_false, exists_eq_left']
  exact eq_comm

end Sys2Proof.Machine
end

