-- ==== Sys2Proof/Laws/Exec.lean ====
section
/-! SUPPORT. What the handlers with more than one case answer in each case, and the cases of a step. -/

namespace Sys2Proof.Machine

/-- RET with an empty stack. -/
theorem exec_ret_of_empty {s : State} (h : s.sp.val = 0) :
    exec .ret s = .next (s.takeHandlerFault .stackUnderflow .ret) := by
  simp [exec, execRet, h]

/-- RET with a slot to return to. -/
theorem exec_ret_of_pos {s : State} (h : 0 < s.sp.val) :
    exec .ret s =
      .next ((s.setCalls s.stack ⟨s.sp.val - 1, by omega⟩).setPc (s.stack[s.sp.val - 1]'(by omega))) := by
  simp [exec, execRet, Nat.ne_of_gt h]

/-- CALL with a free slot. -/
theorem exec_call_of_lt {s : State} (nnn : Addr) (h : s.sp.val < 16) :
    exec (.call nnn) s =
      .next ((s.setCalls (s.stack.set s.sp.val s.pc h) ⟨s.sp.val + 1, by omega⟩).setPc (addrWord nnn)) := by
  simp [exec, execCall, h]

/-- CALL with a full stack. -/
theorem exec_call_of_full {s : State} (nnn : Addr) (h : s.sp.val = 16) :
    exec (.call nnn) s = .next (s.takeHandlerFault .stackOverflow (.call nnn)) := by
  simp [exec, execCall, h]

/-- LD Vx, K with a key down. -/
theorem exec_ldVxK_of_some {s : State} (x : Reg) {k : Fin 16} (h : firstKey s.key = some k) :
    exec (.ldVxK x) s = .next (s.setV x (BitVec.ofNat 8 k.val)) := by
  simp [exec, execLdVxK, h]

/-- LD Vx, K with no key down. -/
theorem exec_ldVxK_of_none {s : State} (x : Reg) (h : firstKey s.key = none) :
    exec (.ldVxK x) s = .next (s.setPc (s.pc - 2)) := by
  simp [exec, execLdVxK, h]

/-! ## The cases of a step (30 R78, 60 R198) -/

theorem step_of_halted {s : State} (h : s.halted = true) : step s = .next s.clearReport := by simp [step, h]

theorem step_of_no_fetch {s : State} (h : s.halted = false) (hf : s.fetch = none) : step s = .next (fetchFault s) := by
  simp [step, h, hf]

theorem step_of_instr {s : State} {w : Word} {i : Instr} (h : s.halted = false) (hf : s.fetch = some w)
    (hd : decode w = .ok i) : step s = finishStep (exec i (beginStep s)) := by
  simp [step, h, hf, execWord, hd]

theorem step_of_unknown {s : State} {w : Word} {e : Reject} (h : s.halted = false) (hf : s.fetch = some w)
    (hd : decode w = .error e) : step s = .next (endStep (unknownWord (beginStep s))) := by
  simp [step, h, hf, execWord, hd, finishStep]

end Sys2Proof.Machine
end

