-- ==== Sys2Proof/Laws/PerInstr.lean ====
section
/-! SUPPORT. Statements made for each instruction as syntax: its encoding selects its own row of the opcode table
(spec 30 R76). -/

namespace Sys2Proof.Laws.InRow

/-- The encoding of an instruction selects the instruction's row. -/
def Statement (i : Instr) : Prop := encode i &&& i.row.mask = i.row.bits

theorem encodeNnn_row (f : BitVec 4) (nnn : Addr) : encodeNnn f nnn &&& 0xF000 = f.setWidth 16 <<< 12 := by
  apply BitVec.eq_of_getLsbD_eq; intro i hi
  interval_cases i <;> simp [encodeNnn]

theorem encodeXKk_row (f : BitVec 4) (x : Reg) (kk : Byte) : encodeXKk f x kk &&& 0xF000 = f.setWidth 16 <<< 12 := by
  apply BitVec.eq_of_getLsbD_eq; intro i hi
  interval_cases i <;> simp [encodeXKk]

theorem encodeX_row (f : BitVec 4) (kk : Byte) (x : Reg) : encodeXKk f x kk &&& 0xF0FF = f.setWidth 16 <<< 12 ||| kk.setWidth 16 := by
  apply BitVec.eq_of_getLsbD_eq; intro i hi
  interval_cases i <;> simp [encodeXKk]

theorem encodeXy_row (f n : BitVec 4) (x y : Reg) : encodeXyN f x y n &&& 0xF00F = f.setWidth 16 <<< 12 ||| n.setWidth 16 := by
  apply BitVec.eq_of_getLsbD_eq; intro i hi
  interval_cases i <;> simp [encodeXyN]

theorem encodeXyN_row (f : BitVec 4) (x y : Reg) (n : BitVec 4) : encodeXyN f x y n &&& 0xF000 = f.setWidth 16 <<< 12 := by
  apply BitVec.eq_of_getLsbD_eq; intro i hi
  interval_cases i <;> simp [encodeXyN]

theorem cls : Statement (.cls) := rfl
theorem ret : Statement (.ret) := rfl
theorem jpNnn (nnn : Addr) : Statement (.jpNnn nnn) := encodeNnn_row _ nnn
theorem call (nnn : Addr) : Statement (.call nnn) := encodeNnn_row _ nnn
theorem seVxKk (x : Reg) (kk : Byte) : Statement (.seVxKk x kk) := encodeXKk_row _ x kk
theorem sneVxKk (x : Reg) (kk : Byte) : Statement (.sneVxKk x kk) := encodeXKk_row _ x kk
theorem seVxVy (x y : Reg) : Statement (.seVxVy x y) := encodeXy_row _ _ x y
theorem ldVxKk (x : Reg) (kk : Byte) : Statement (.ldVxKk x kk) := encodeXKk_row _ x kk
theorem addVxKk (x : Reg) (kk : Byte) : Statement (.addVxKk x kk) := encodeXKk_row _ x kk
theorem ldVxVy (x y : Reg) : Statement (.ldVxVy x y) := encodeXy_row _ _ x y
theorem orVxVy (x y : Reg) : Statement (.orVxVy x y) := encodeXy_row _ _ x y
theorem andVxVy (x y : Reg) : Statement (.andVxVy x y) := encodeXy_row _ _ x y
theorem xorVxVy (x y : Reg) : Statement (.xorVxVy x y) := encodeXy_row _ _ x y
theorem addVxVy (x y : Reg) : Statement (.addVxVy x y) := encodeXy_row _ _ x y
theorem subVxVy (x y : Reg) : Statement (.subVxVy x y) := encodeXy_row _ _ x y
theorem shrVxVy (x y : Reg) : Statement (.shrVxVy x y) := encodeXy_row _ _ x y
theorem subnVxVy (x y : Reg) : Statement (.subnVxVy x y) := encodeXy_row _ _ x y
theorem shlVxVy (x y : Reg) : Statement (.shlVxVy x y) := encodeXy_row _ _ x y
theorem sneVxVy (x y : Reg) : Statement (.sneVxVy x y) := encodeXy_row _ _ x y
theorem ldINnn (nnn : Addr) : Statement (.ldINnn nnn) := encodeNnn_row _ nnn
theorem jpV0Nnn (nnn : Addr) : Statement (.jpV0Nnn nnn) := encodeNnn_row _ nnn
theorem rnd (x : Reg) (kk : Byte) : Statement (.rnd x kk) := encodeXKk_row _ x kk
theorem drw (x y : Reg) (n : Nat) : Statement (.drw x y n) := encodeXyN_row _ x y _
theorem skp (x : Reg) : Statement (.skp x) := encodeX_row _ _ x
theorem sknp (x : Reg) : Statement (.sknp x) := encodeX_row _ _ x
theorem ldVxDt (x : Reg) : Statement (.ldVxDt x) := encodeX_row _ _ x
theorem ldVxK (x : Reg) : Statement (.ldVxK x) := encodeX_row _ _ x
theorem ldDtVx (x : Reg) : Statement (.ldDtVx x) := encodeX_row _ _ x
theorem ldStVx (x : Reg) : Statement (.ldStVx x) := encodeX_row _ _ x
theorem addIVx (x : Reg) : Statement (.addIVx x) := encodeX_row _ _ x
theorem ldFVx (x : Reg) : Statement (.ldFVx x) := encodeX_row _ _ x
theorem ldBVx (x : Reg) : Statement (.ldBVx x) := encodeX_row _ _ x
theorem ldMiVx (x : Reg) : Statement (.ldMiVx x) := encodeX_row _ _ x
theorem ldVxMi (x : Reg) : Statement (.ldVxMi x) := encodeX_row _ _ x

end Sys2Proof.Laws.InRow
end

