-- ==== Sys2Proof/Tests/Slice0.lean ====
section
/-! SUPPORT. The model's own tests. Expected results come from spec 30 R76 (encodings), spec 95 (vectors) and the rules
cited; none is the model's own answer. The last sections hold, for every statement with hypotheses, a state and
operands that meet them. -/

namespace Sys2Proof.Tests

open Sys2Proof Sys2Proof.Machine

/-! ## Helpers -/

/-- The reset state with a word placed at 0x200. -/
def at200 (w : Nat) : State := State.reset.withFetchWord 16 w

/-- The state after one step. -/
def after (s : State) : State :=
  match step s with
  | .next t => t
  | .fault _ => s
  | .refused _ => s

/-- Registers set from a list. -/
def withV (l : List (Reg × Byte)) (s : State) : State := l.foldl (fun s p => s.setV p.1 p.2) s

/-- Bytes stored from an address on. -/
def withBytes (a : Word) (l : List Byte) (s : State) : State := s.setMem (storeBytes a 0 l s.mem)

/-- A state with a word placed at any `pc`. -/
def atPc (pc : Word) (w : Nat) : State := (State.reset.setPc pc).withFetchWord 16 w

/-- A keypad with the listed keys pressed. -/
def keysDown (l : List Nat) : Vector Bool 16 := Vector.ofFn fun k => l.contains k.val

/-- A screen with one cell lit. -/
def litAt (row col : Nat) : Screen := Screen.blank.toggle row col

/-- The same state in a block whose timers are the host's. -/
def external (s : State) : State := { s with params := ⟨.externalTick, defaultFont⟩ }

/-! ## Well-formedness (30 R73, R74) -/

theorem test_wf_row_count_16_refused : (Instr.drw 0 0 16).wf = false := by decide
theorem test_wf_row_count_15_accepted : (Instr.drw 15 15 15).wf = true := by decide

/-! ## One word of each row, written out from 30 R76 -/

theorem test_decode_cls : decodeBytes [0x00, 0xE0] = .ok (.cls, []) := by decide
theorem test_decode_ret : decodeBytes [0x00, 0xEE] = .ok (.ret, []) := by decide
theorem test_decode_jp : decodeBytes [0x12, 0x34] = .ok (.jpNnn 0x234, []) := by decide
theorem test_decode_call : decodeBytes [0x22, 0x0A] = .ok (.call 0x20A, []) := by decide
theorem test_decode_se_imm : decodeBytes [0x3A, 0x7F] = .ok (.seVxKk 10 0x7F, []) := by decide
theorem test_decode_sne_imm : decodeBytes [0x4B, 0x80] = .ok (.sneVxKk 11 0x80, []) := by decide
theorem test_decode_se_reg : decodeBytes [0x53, 0x40] = .ok (.seVxVy 3 4, []) := by decide
theorem test_decode_ld_imm : decodeBytes [0x63, 0x42] = .ok (.ldVxKk 3 0x42, []) := by decide
theorem test_decode_add_imm : decodeBytes [0x75, 0xFF] = .ok (.addVxKk 5 0xFF, []) := by decide
theorem test_decode_ld_reg : decodeBytes [0x82, 0xF0] = .ok (.ldVxVy 2 15, []) := by decide
theorem test_decode_or : decodeBytes [0x80, 0x11] = .ok (.orVxVy 0 1, []) := by decide
theorem test_decode_and : decodeBytes [0x82, 0x32] = .ok (.andVxVy 2 3, []) := by decide
theorem test_decode_xor : decodeBytes [0x84, 0x53] = .ok (.xorVxVy 4 5, []) := by decide
theorem test_decode_add_reg : decodeBytes [0x86, 0x74] = .ok (.addVxVy 6 7, []) := by decide
theorem test_decode_sub : decodeBytes [0x8F, 0x15] = .ok (.subVxVy 15 1, []) := by decide
theorem test_decode_shr : decodeBytes [0x88, 0x96] = .ok (.shrVxVy 8 9, []) := by decide
theorem test_decode_subn : decodeBytes [0x8A, 0xB7] = .ok (.subnVxVy 10 11, []) := by decide
theorem test_decode_shl : decodeBytes [0x8C, 0xDE] = .ok (.shlVxVy 12 13, []) := by decide
theorem test_decode_sne_reg : decodeBytes [0x9E, 0xF0] = .ok (.sneVxVy 14 15, []) := by decide
theorem test_decode_ld_i : decodeBytes [0xA1, 0x23] = .ok (.ldINnn 0x123, []) := by decide
theorem test_decode_jp_v0 : decodeBytes [0xBF, 0xED] = .ok (.jpV0Nnn 0xFED, []) := by decide
theorem test_decode_rnd : decodeBytes [0xC1, 0x0F] = .ok (.rnd 1 0x0F, []) := by decide
theorem test_decode_drw : decodeBytes [0xD1, 0x2F] = .ok (.drw 1 2 15, []) := by decide
theorem test_decode_skp : decodeBytes [0xE2, 0x9E] = .ok (.skp 2, []) := by decide
theorem test_decode_sknp : decodeBytes [0xE3, 0xA1] = .ok (.sknp 3, []) := by decide
theorem test_decode_ld_vx_dt : decodeBytes [0xF4, 0x07] = .ok (.ldVxDt 4, []) := by decide
theorem test_decode_ld_vx_k : decodeBytes [0xF5, 0x0A] = .ok (.ldVxK 5, []) := by decide
theorem test_decode_ld_dt_vx : decodeBytes [0xF6, 0x15] = .ok (.ldDtVx 6, []) := by decide
theorem test_decode_ld_st_vx : decodeBytes [0xF7, 0x18] = .ok (.ldStVx 7, []) := by decide
theorem test_decode_add_i : decodeBytes [0xF8, 0x1E] = .ok (.addIVx 8, []) := by decide
theorem test_decode_ld_f : decodeBytes [0xF9, 0x29] = .ok (.ldFVx 9, []) := by decide
theorem test_decode_ld_b : decodeBytes [0xFA, 0x33] = .ok (.ldBVx 10, []) := by decide
theorem test_decode_store : decodeBytes [0xFB, 0x55] = .ok (.ldMiVx 11, []) := by decide
theorem test_decode_load : decodeBytes [0xFC, 0x65] = .ok (.ldVxMi 12, []) := by decide

/-- The rejected words of spec 95 section 2.1. -/
theorem test_decode_unknown_words :
    decode 0x01E0 = .error .family0 ∧ decode 0x0FEE = .error .family0 ∧ decode 0x0000 = .error .family0 ∧
    decode 0x5341 = .error .family5 ∧ decode 0x9341 = .error .family9 ∧ decode 0x8008 = .error .family8 ∧
    decode 0x800F = .error .family8 ∧ decode 0xE000 = .error .familyE ∧ decode 0xF000 = .error .familyF ∧
    decode 0xFFFF = .error .familyF ∧ decode 0xF01F = .error .familyF := by decide

/-- One byte is no instruction (30 R71). -/
theorem test_decode_truncated : decodeBytes [0x12] = .error .truncated := by decide

/-- The table's rows fix bits that exclude each other, pair by pair (30 R76). -/
theorem test_rows_disjoint : opcodeRows.Pairwise (fun r q => r.disjoint q = true) := by decide

/-- The host's numbering: a 16-bit word is itself. -/
theorem test_decode_table_word : decodeTableWord 16 0xD015 = some (.drw 0 1 5) := by decide

/-- Spellings of 30 R76 and spec 95's programs. -/
theorem test_asm :
    (Instr.ldVxKk 0 0x05).asm = "LD V0, 0x05" ∧ (Instr.call 0x20A).asm = "CALL 0x20A" ∧
    (Instr.drw 0 1 15).asm = "DRW V0, V1, 15" ∧ (Instr.ldVxMi 2).asm = "LD V2, [I]" := by decide

/-! ## One step each, from spec 95 -/

theorem test_step_moves_two :
    let t := after (at200 0x6005)
    t.getV 0 = 5 ∧ t.pc = 0x202 ∧ t.report = .empty := by decide
theorem test_cls :
    let t := after ((((at200 0x00E0).setScreen (litAt 3 9)).setV 15 1))
    t.fb = Screen.blank ∧ t.getV 15 = 1 := by decide
theorem test_ret :
    let t := after ((at200 0x00EE).setCalls (State.reset.stack.set 0 0x206) 1)
    t.sp = 0 ∧ t.pc = 0x206 ∧ t.stack[0] = 0x206 := by decide
theorem test_ret_underflow :
    let t := after ((at200 0x00EE).setTimers 2 0)
    t.halted = true ∧ t.faultCode = .stackUnderflow ∧ t.faultPc = 0x200 ∧ t.faultWord = 0x00EE ∧ t.pc = 0x200 ∧ t.dt = 2 := by decide
theorem test_jp :
    let t := after (at200 0x1234)
    t.pc = 0x234 := by decide
theorem test_call :
    let t := after (atPc 0x204 0x220A)
    t.stack[0] = 0x206 ∧ t.sp = 1 ∧ t.pc = 0x20A := by decide
theorem test_call_overflow :
    let t := after ((atPc 0x300 0x2400).setCalls State.reset.stack 16)
    t.halted = true ∧ t.faultCode = .stackOverflow ∧ t.faultPc = 0x300 ∧ t.faultWord = 0x2400 ∧ t.sp = 16 ∧ t.pc = 0x300 ∧
      t.stack = State.reset.stack := by decide
theorem test_call_last_slot :
    let t := after ((atPc 0x300 0x2400).setCalls State.reset.stack 15)
    t.halted = false ∧ t.stack[15] = 0x302 ∧ t.sp = 16 := by decide
theorem test_se_imm_skips :
    let t := after (atPc 0x208 0x3100)
    t.pc = 0x20C := by decide
theorem test_se_imm_stays :
    let t := after (withV [(1, 3)] (atPc 0x208 0x3100))
    t.pc = 0x20A := by decide
theorem test_sne_imm_stays :
    let t := after (withV [(2, 7)] (atPc 0x300 0x4207))
    t.pc = 0x302 := by decide
theorem test_sne_imm_skips :
    let t := after (withV [(2, 7)] (atPc 0x300 0x4208))
    t.pc = 0x304 := by decide
theorem test_se_reg_skips :
    let t := after (withV [(3, 0x10), (4, 0x10)] (at200 0x5340))
    t.pc = 0x204 := by decide
theorem test_se_reg_stays :
    let t := after (withV [(3, 1), (4, 2)] (at200 0x5340))
    t.pc = 0x202 := by decide
theorem test_sne_reg_skips :
    let t := after (withV [(3, 1), (4, 2)] (at200 0x9340))
    t.pc = 0x204 := by decide
theorem test_sne_reg_self_stays :
    let t := after (withV [(3, 1)] (at200 0x9330))
    t.pc = 0x202 := by decide
theorem test_ld_imm :
    let t := after (withV [(3, 0x99)] (at200 0x6342))
    t.getV 3 = 0x42 := by decide
theorem test_add_imm_wraps_no_flag :
    let t := after (withV [(5, 0xFF), (15, 1)] (at200 0x7501))
    t.getV 5 = 0 ∧ t.getV 15 = 1 := by decide
theorem test_add_imm_vf :
    let t := after (withV [(15, 0x10)] (at200 0x7F05))
    t.getV 15 = 0x15 := by decide
theorem test_ld_reg :
    let t := after (withV [(1, 0x37)] (at200 0x8010))
    t.getV 0 = 0x37 ∧ t.getV 1 = 0x37 := by decide
theorem test_or :
    let t := after (withV [(0, 0xF0), (1, 0x0F), (15, 1)] (at200 0x8011))
    t.getV 0 = 0xFF ∧ t.getV 15 = 0 := by decide
theorem test_or_vf :
    let t := after (withV [(15, 0x0F), (1, 0xF0)] (at200 0x8F11))
    t.getV 15 = 0 := by decide
theorem test_and :
    let t := after (withV [(0, 0xF0), (1, 0x3C), (15, 1)] (at200 0x8012))
    t.getV 0 = 0x30 ∧ t.getV 15 = 0 := by decide
theorem test_xor :
    let t := after (withV [(0, 0xFF), (1, 0x0F), (15, 1)] (at200 0x8013))
    t.getV 0 = 0xF0 ∧ t.getV 15 = 0 := by decide
theorem test_add_reg_carry :
    let t := after (withV [(0, 0x10), (15, 0xFF)] (at200 0x80F4))
    t.getV 0 = 0x0F ∧ t.getV 15 = 1 := by decide
theorem test_add_reg_vf :
    let t := after (withV [(15, 0x90), (1, 0x80)] (at200 0x8F14))
    t.getV 15 = 0x10 := by decide
theorem test_sub_equal :
    let t := after (withV [(0, 5), (1, 5), (15, 7)] (at200 0x8015))
    t.getV 0 = 0 ∧ t.getV 15 = 0 := by decide
theorem test_sub_vf :
    let t := after (withV [(15, 5), (1, 3)] (at200 0x8F15))
    t.getV 15 = 0xFE := by decide
theorem test_sub_minus_vf :
    let t := after (withV [(0, 5), (15, 3)] (at200 0x80F5))
    t.getV 0 = 4 ∧ t.getV 15 = 1 := by decide
theorem test_shr :
    let t := after (withV [(0, 5), (1, 0xFF)] (at200 0x8016))
    t.getV 0 = 2 ∧ t.getV 15 = 1 := by decide
theorem test_shr_vf :
    let t := after (withV [(15, 0xFF)] (at200 0x8F06))
    t.getV 15 = 0 := by decide
theorem test_subn_less :
    let t := after (withV [(0, 5), (1, 3)] (at200 0x8017))
    t.getV 0 = 0xFE ∧ t.getV 15 = 0 := by decide
theorem test_subn_vf :
    let t := after (withV [(15, 3), (1, 5)] (at200 0x8F17))
    t.getV 15 = 4 := by decide
theorem test_shl :
    let t := after (withV [(0, 0x81)] (at200 0x801E))
    t.getV 0 = 2 ∧ t.getV 15 = 1 := by decide
theorem test_shl_vf :
    let t := after (withV [(15, 0xC0)] (at200 0x8F0E))
    t.getV 15 = 2 := by decide
theorem test_ld_i :
    let t := after ((at200 0xA300).setIndex 0x123)
    t.index = 0x300 := by decide
theorem test_jp_v0 :
    let t := after (withV [(0, 0xFF)] (at200 0xBFFF))
    t.pc = 0x10FE := by decide

/-- RND of a mask 0 is 0 whatever the byte; the masked bits of any byte are 0 (42 R141). -/
theorem test_rnd : (after (withV [(1, 9)] (at200 0xC100))).getV 1 = 0 ∧ (after (at200 0xC10F)).draws = 1 :=
  ⟨by show Config.randByte 0 &&& 0 = 0; exact BitVec.and_zero, by decide⟩

theorem test_drw_right_edge :
    let t := after (withV [(0, 62), (1, 1)] (withBytes 0x20C [0xC3] ((at200 0xD011).setIndex 0x20C)))
    (∀ c : Fin 64, t.fb.lit 1 c.val = decide (c ∈ [62, 63, 4, 5])) ∧ t.fb.lit 0 62 = false ∧ t.getV 15 = 0 := by decide
theorem test_drw_coordinate_from_old_vf :
    let t := after (withV [(15, 5)] (withBytes 0x300 [0x80] ((at200 0xDF11).setIndex 0x300)))
    t.fb.cell 5 = true ∧ t.fb.cell 0 = false ∧ t.getV 15 = 0 := by decide
theorem test_drw_collision :
    let t := after (((withBytes 0x300 [0xC0] (at200 0xD011)).setIndex 0x300).setScreen (litAt 0 1))
    t.fb.cell 0 = true ∧ t.fb.cell 1 = false ∧ t.getV 15 = 1 := by decide
theorem test_drw_wraps_address :
    let t := after ((withBytes 0xFFF [0x80] (at200 0xD012)).setIndex 0xFFF)
    t.fb.cell 0 = true ∧ t.fb.cell 1 = false ∧ t.fb.cell 64 = true ∧ t.fb.cell 67 = true ∧ t.fb.cell 68 = false ∧
      t.report = ⟨.none, false, true⟩ := by decide
theorem test_skp_modulo_16 :
    let t := after ((withV [(0, 0x13)] (at200 0xE09E)).setKeys (keysDown [3]))
    t.pc = 0x204 := by decide
theorem test_skp_stays :
    let t := after (withV [(0, 5)] (at200 0xE09E))
    t.pc = 0x202 := by decide
theorem test_sknp_skips :
    let t := after (withV [(0, 5)] (at200 0xE0A1))
    t.pc = 0x204 := by decide
theorem test_sknp_stays :
    let t := after ((withV [(0, 5)] (at200 0xE0A1)).setKeys (keysDown [5]))
    t.pc = 0x202 := by decide
theorem test_ld_vx_dt :
    let t := after ((at200 0xF107).setTimers 4 0)
    t.getV 1 = 4 ∧ t.dt = 3 := by decide
theorem test_ld_vx_k_lowest :
    let t := after ((atPc 0x206 0xF20A).setKeys (keysDown [9, 7]))
    t.getV 2 = 7 ∧ t.pc = 0x208 := by decide
theorem test_ld_vx_k_waits :
    let t := after ((withV [(2, 1)] (atPc 0x206 0xF20A)).setTimers 2 0)
    t.pc = 0x206 ∧ t.getV 2 = 1 ∧ t.dt = 1 := by decide
theorem test_ld_dt_vx :
    let t := after (withV [(0, 5)] (at200 0xF015))
    t.dt = 4 := by decide
theorem test_ld_dt_vx_external :
    let t := after (external (withV [(0, 5)] (at200 0xF015)))
    t.dt = 5 := by decide
theorem test_ld_st_vx :
    let t := after (withV [(3, 0x3C)] (at200 0xF318))
    t.st = 0x3B ∧ soundOn t = true ∧ stOut t = 0x3B := by decide
theorem test_ld_st_vx_one :
    let t := after (withV [(3, 1)] (at200 0xF318))
    t.st = 0 ∧ soundOn t = false := by decide
theorem test_add_i_past_4095 :
    let t := after (withV [(2, 0x20)] ((at200 0xF21E).setIndex 0x0FF0))
    t.index = 0x1010 ∧ t.getV 15 = 0 := by decide
theorem test_add_i_wraps :
    let t := after (withV [(0, 1)] ((at200 0xF01E).setIndex 0xFFFF))
    t.index = 0 := by decide
theorem test_ld_f :
    let t := after (withV [(0, 0x0A)] (at200 0xF029))
    t.index = 0x032 := by decide
theorem test_ld_f_not_masked :
    let t := after (withV [(0, 0xFF)] (at200 0xF029))
    t.index = 0x4FB := by decide
theorem test_ld_b :
    let t := after (withV [(0, 15)] ((at200 0xF033).setIndex 0x300))
    t.mem.read 0x300 = 0 ∧ t.mem.read 0x301 = 1 ∧ t.mem.read 0x302 = 5 ∧ t.report = .empty := by decide
theorem test_ld_b_wraps :
    let t := after (withV [(0, 123)] ((at200 0xF033).setIndex 0xFFE))
    t.mem.read 0xFFE = 1 ∧ t.mem.read 0xFFF = 2 ∧ t.mem.read 0x000 = 3 ∧ t.report = ⟨.none, false, true⟩ := by decide
theorem test_store :
    let t := after (withV [(0, 1), (1, 2), (2, 3), (3, 4)] ((at200 0xF255).setIndex 0x400))
    t.mem.read 0x400 = 1 ∧ t.mem.read 0x401 = 2 ∧ t.mem.read 0x402 = 3 ∧ t.mem.read 0x403 = 0 ∧ t.index = 0x400 := by decide
theorem test_load :
    let t := after (withBytes 0x300 [9, 1, 5, 7] ((at200 0xF265).setIndex 0x300))
    t.getV 0 = 9 ∧ t.getV 1 = 1 ∧ t.getV 2 = 5 ∧ t.getV 3 = 0 ∧ t.index = 0x300 := by decide
theorem test_load_wraps :
    let t := after (withBytes 0x010 [0xAB] ((at200 0xF065).setIndex 0x1010))
    t.getV 0 = 0xAB ∧ t.report = ⟨.none, false, true⟩ := by decide

/-! ## The step, the timers and the ports, from spec 95 sections 1 and 2.1 -/

theorem test_step_unknown :
    let t := after ((at200 0x0123).setTimers 2 0)
    t.pc = 0x202 ∧ t.dt = 1 ∧ t.report = ⟨.none, true, false⟩ := by decide
theorem test_step_at_0xFFE :
    let t := after (atPc 0xFFE 0x6007)
    t.getV 0 = 7 ∧ t.pc = 0x1000 ∧ t.halted = false := by decide
theorem test_step_at_0xFFF :
    let t := after ((State.reset.setPc 0xFFF).setTimers 5 0)
    t.halted = true ∧ statusOut t = (true, 1, 0xFFF, 0) ∧ t.pc = 0xFFF ∧ t.dt = 5 := by decide
theorem test_step_odd_pc :
    let t := after (atPc 0x201 0x6007)
    t.getV 0 = 7 ∧ t.pc = 0x203 := by decide
theorem test_step_halted :
    let t := after ((at200 0x6007).setFaultStatus true .fetchOutOfRange 0x200 0)
    t.getV 0 = 0 ∧ t.pc = 0x200 ∧ t.halted = true := by decide
theorem test_step_external_tick :
    let t := after ((external (at200 0x6000)).setTimers 3 0)
    t.dt = 3 ∧ (act .tick t).dt = 2 := by decide

/-- A program of two bytes loaded at boot and stepped once (spec 95 S8). -/
theorem test_boot_and_step :
    let t := after (boot defaultParams [0x60, 0x05]).1
    (boot defaultParams [0x60, 0x05]).2 = .ok ∧ t.getV 0 = 5 ∧ t.pc = 0x202 := by decide +kernel

/-- The load stops past 0xFFF and keeps what it copied (spec 95 S14). -/
theorem test_load_edge :
    (loadFrom 0xFFF [7] []).2 = .ok ∧ (loadFrom 0xFFF [7, 8] []).2 = .romTooLarge ∧
    (loadFrom 0xFFF [7, 8] []).1.read 0xFFF = 7 ∧ (loadFrom 0xFFF [7, 8] []).1.read 0 = 0xF0 := by decide

/-- Writing what an unlisted byte reads as removes its entry; an entry out of order is no canonical form. -/
theorem test_memory_canonical :
    ((State.reset.mem.write 0x300 5).write 0x300 0) = [] ∧ Memory.wf [(0x300, 5), (0x300, 6)] = false ∧
    Memory.wf [(0x301, 5), (0x300, 6)] = false ∧ Memory.wf [(0x300, 0)] = false ∧ Memory.wf [(4096, 1)] = false := by decide

/-- The default font's glyph 0 and glyph F, and the byte after the font (spec 93 section 3). -/
theorem test_reset_memory :
    State.reset.mem.read 0 = 0xF0 ∧ State.reset.mem.read 1 = 0x90 ∧ State.reset.mem.read 79 = 0x80 ∧
    State.reset.mem.read 80 = 0 := by decide

/-- A block with another FONT reads it after reset (70 R232). -/
theorem test_reset_other_font :
    (resetWith ⟨.perStep, Vector.replicate 80 0x11⟩).mem.read 79 = 0x11 ∧
    (resetWith ⟨.perStep, Vector.replicate 80 0x11⟩).mem.read 80 = 0 := by decide

/-! ## The hypotheses of the statements are met

Each theorem is named after the statement and, where it has several, the clause. -/

theorem hyp_DecodeInvertsEncode : (Instr.drw 15 0 15).wf = true ∧ (Instr.drw 0 15 0).wf = true := by decide

theorem hyp_EncodeInvertsDecode : decode 0xD12F = .ok (.drw 1 2 15) := by decide

theorem hyp_RowsSelectExactlyWhatDecodes :
    (Instr.drw 0 0 0).row ∈ opcodeRows ∧ (Instr.drw 0 0 0).row.selects 0xD12F = true := by decide

/-- Each clause at the words beside the ones it leaves out. -/
theorem hyp_UnknownWordsAreTheSpecsTable :
    decode 0x00E1 = .error .family0 ∧ decode 0x5001 = .error .family5 ∧ decode 0x8008 = .error .family8 ∧
    decode 0x800D = .error .family8 ∧ decode 0x900F = .error .family9 ∧ decode 0xE09F = .error .familyE ∧
    decode 0xF066 = .error .familyF := by decide

theorem hyp_StepRunsTheDecodedInstruction :
    let s := atPc 0xFFE 0x6007
    s.halted = false ∧ s.pc.toNat ≤ 0xFFE ∧
    decodeBytes [s.mem.read (dataAddr s.pc 0), s.mem.read (dataAddr s.pc 1)] = .ok (.ldVxKk 0 7, []) ∧
    (Instr.ldVxKk 0 7).wf = true ∧ exec (.ldVxKk 0 7) (beginStep s) = .next ((beginStep s).setV 0 7) ∧
    ((beginStep s).setV 0 7).halted = false :=
  ⟨by decide, by decide, by decide, by decide, rfl, by decide⟩

/-- The clause of a handler that faults: RET with an empty stack. -/
theorem hyp_StepRunsTheDecodedInstruction_fault :
    let s := at200 0x00EE
    s.halted = false ∧ decodeBytes [s.mem.read (dataAddr s.pc 0), s.mem.read (dataAddr s.pc 1)] = .ok (.ret, []) ∧
    exec .ret (beginStep s) = .next ((beginStep s).takeHandlerFault .stackUnderflow .ret) ∧
    ((beginStep s).takeHandlerFault .stackUnderflow .ret).halted = true :=
  ⟨by decide, by decide, rfl, rfl⟩

theorem hyp_FetchIsBigEndianOrFaults :
    (State.reset.setPc 0xFFE).pc.toNat ≤ 0xFFE ∧
    (State.reset.setPc 0xFFF).halted = false ∧ 0xFFE < (State.reset.setPc 0xFFF).pc.toNat := by decide

theorem hyp_UnknownWordIsANoOpWithADiagnostic :
    State.reset.halted = false ∧ State.reset.fetch = some 0x0000 ∧ decode 0x0000 = .error .family0 := by decide

theorem hyp_HaltedBlockChangesNothing : (after (at200 0x00EE)).halted = true := by decide

/-- Each of the four cases: no fetch, full stack, empty stack, none of them. -/
theorem hyp_FaultsAreExactAndPrecise :
    (State.reset.setPc 0xFFF).fetch = none ∧
    ((atPc 0x300 0x2400).setCalls State.reset.stack 16).sp = 16 ∧
    ((atPc 0x300 0x2400).setCalls State.reset.stack 16).fetch = some (encodeNnn 0x2 0x400) ∧
    (at200 0x00EE).sp = 0 ∧ (at200 0x00EE).fetch = some 0x00EE ∧
    (at200 0x6000).fetch = some 0x6000 ∧ (at200 0x6000).halted = false := by decide

theorem hyp_FaultsAreExactAndPrecise_step :
    ∃ t, step (at200 0x6000) = .next t ∧ t.halted = false := ⟨_, rfl, by decide⟩

/-- Both diagnostics, each reported. -/
theorem hyp_DiagnosticsAreExact :
    (∃ t, step (at200 0x0000) = .next t ∧ t.report.unknownInstruction = true) ∧
    (∃ t, step ((at200 0xF155).setIndex 0xFFF) = .next t ∧ t.report.addressWrapped = true) ∧
    (∃ t, step ((at200 0xF055).setIndex 0xFFF) = .next t ∧ t.report.addressWrapped = false) :=
  ⟨⟨_, rfl, by decide⟩, ⟨_, rfl, by decide⟩, ⟨_, rfl, by decide⟩⟩

theorem hyp_TimersCountOncePerStepOrNotAtAll :
    step (at200 0x6000) = .next (after (at200 0x6000)) ∧ (at200 0x6000).halted = false ∧ (at200 0x6000).fetch = some 0x6000 ∧ (after (at200 0x6000)).halted = false ∧
    (∀ x, decode 0x6000 ≠ .ok (.ldDtVx x)) ∧ (∀ x, decode 0x6000 ≠ .ok (.ldStVx x)) :=
  ⟨rfl, by decide⟩

/-- Two steps of a jump to itself, with a key change between them. -/
theorem hyp_DelayTimerReachesZeroOnTime :
    let s := (at200 0x1200).setTimers 1 0
    let es : List Event := [.step, .host (.keys (keysDown [3])), .step]
    s.params.timerSource = .perStep ∧ (∀ e ∈ es, e = .step ∨ ∃ key, e = .host (.keys key)) ∧
    (∀ n ≤ es.length, (runEvents (es.take n) s).halted = false) ∧
    (∀ n ≤ es.length, (runEvents (es.take n) s).fetch = some 0x1200) ∧ (∀ x, decode 0x1200 ≠ .ok (.ldDtVx x)) ∧
    (runEvents es s).dt = 0 :=
  ⟨rfl, by simp, by decide, by decide, by decide, by decide⟩

/-- A collision and none, at the largest row count and at 0. -/
theorem hyp_DrawXorsTheSprite :
    (15 ≤ 15 ∧ 0 ≤ 15) ∧
    (∃ r < 15, ∃ c < 8, (State.reset.mem.read (dataAddr 0 r)).getLsbD (7 - c) = true ∧ (litAt 0 1).lit (0 + r) (0 + c) = true) ∧
    ¬(∃ r < 15, ∃ c < 8, (State.reset.mem.read (dataAddr 0 r)).getLsbD (7 - c) = true ∧ Screen.blank.lit (0 + r) (0 + c) = true) := by
  decide

theorem hyp_DrawingTwiceRestoresTheScreen :
    ((0 : Reg) ≠ 15 ∧ (14 : Reg) ≠ 15 ∧ 15 ≤ 15) ∧
    (after ((at200 0xD011).setScreen Screen.blank)).fb.cell 0 = true ∧
    (after ((after (at200 0xD011)).setPc 0x200)).getV 15 = 1 := by decide

/-- A sprite that falls on lit cells only collides the first time and not the second: log entry 18. -/
theorem test_second_draw_need_not_collide :
    let s := withBytes 0x300 [0x80] (((at200 0xD011).setIndex 0x300).setScreen (litAt 0 0))
    (after s).getV 15 = 1 ∧ (after ((after s).setPc 0x200)).getV 15 = 0 := by decide

theorem hyp_ReturnPopsOrUnderflows :
    0 < (State.reset.setCalls State.reset.stack 1).sp.val ∧ 0 < (State.reset.setCalls State.reset.stack 16).sp.val ∧
    State.reset.sp.val = 0 := by decide

theorem hyp_CallPushesOrOverflows :
    State.reset.sp.val < 16 ∧ (State.reset.setCalls State.reset.stack 15).sp.val < 16 ∧
    (State.reset.setCalls State.reset.stack 16).sp.val = 16 := by decide

theorem hyp_ReturnUndoesCall :
    (State.reset.setCalls State.reset.stack 15).sp.val < 16 ∧ 14 ≠ (State.reset.setCalls State.reset.stack 15).sp.val := by decide

/-- Equal and different, for ImmediateSkipsCompareRegisterAndByte and, with the reserved nibbles,
RegisterSkipsCompareTwoRegisters. -/
theorem hyp_SkipConditions :
    State.reset.getV 15 = 0 ∧ State.reset.getV 15 ≠ 1 ∧ State.reset.getV 0 = State.reset.getV 15 ∧
    (State.reset.setV 0 1).getV 0 ≠ (State.reset.setV 0 1).getV 15 ∧ (1 : BitVec 4) ≠ 0 ∧ (15 : BitVec 4) ≠ 0 := by decide

/-- The clauses on a destination and a source other than VF, and those on VF, of
LogicWritesResultThenClearsFlag, AddWritesSumAndCarry, SubtractWritesFlagThenDifference,
ReverseSubtractWritesFlagThenDifference and ShiftsWriteTheBitMovedOut. -/
theorem hyp_RegistersBesideTheFlag :
    (0 : Reg) ≠ 15 ∧ (14 : Reg) ≠ 15 ∧ ((0 : Reg) ≠ 15 ∧ (15 : Reg) = 15) ∧ ((15 : Reg) = 15 ∧ (0 : Reg) ≠ 15) := by decide

theorem hyp_RandomByteIsMasked : (0 : Byte) = 0 := rfl

/-- Canonical memory, and addresses beside the stored bytes, for the three statements of stores. -/
theorem hyp_DecimalDigitsAreStored :
    State.reset.mem.wf = true ∧ (0x303 : Addr) ≠ dataAddr 0x300 0 ∧ (0x303 : Addr) ≠ dataAddr 0x300 1 ∧
    (0x303 : Addr) ≠ dataAddr 0x300 2 := by decide

theorem hyp_RegistersAreStored :
    (at200 0xFF55).mem.wf = true ∧ (15 : Reg) ≤ 15 ∧ (0 : Reg) ≤ 0 ∧
    (∀ r : Reg, r ≤ 15 → (0x410 : Addr) ≠ dataAddr 0x400 r.val) := by decide

theorem hyp_RegistersAreLoaded : (15 : Reg) ≤ 15 ∧ (0 : Reg) < 1 ∧ (14 : Reg) < 15 := by decide

theorem hyp_LoadAfterStoreRestoresRegisters : State.reset.mem.wf = true ∧ (0 : Reg) ≤ 0 := by decide

theorem hyp_StoredBytesAreFetched :
    let s := (State.reset.setIndex 0xFFE).setPc 0xFFE
    s.mem.wf = true ∧ s.pc.toNat ≤ 0xFFE ∧ (1 : Reg).val = (0 : Reg).val + 1 ∧ (1 : Reg) ≤ 1 ∧
    dataAddr s.index (0 : Reg).val = dataAddr s.pc 0 ∧ dataAddr s.index (1 : Reg).val = dataAddr s.pc 1 := by decide

theorem hyp_EqualMemoriesAreEqualData :
    Memory.wf [(0x300, 1)] = true ∧ Memory.wf ((Memory.write [] 0x300 7).write 0x300 1) = true ∧
    (Memory.write [] 0x300 7).write 0x300 1 = [(0x300, 1)] := by decide

theorem hyp_KeySkipsTestTheKeyModulo16 :
    (keysDown [15])[(0x1F : Byte).toNat % 16]? = some true ∧ (keysDown [15])[(0x0E : Byte).toNat % 16]? = some false := by
  decide

/-- The lowest key, the highest key, and none. -/
theorem hyp_WaitForKeyTakesTheLowestOrRewinds :
    ((keysDown [15])[(15 : Fin 16)] = true ∧ ∀ j < (15 : Fin 16), (keysDown [15])[j] = false) ∧
    ((keysDown [0, 15])[(0 : Fin 16)] = true ∧ ∀ j < (0 : Fin 16), (keysDown [0, 15])[j] = false) ∧
    (∀ k : Fin 16, State.reset.key[k] = false) := by decide

theorem hyp_TimerInstructionsReadAndSet :
    (at200 0xFF07).halted = false ∧ (at200 0xFF07).fetch = some (encodeXKk 0xF 15 0x07) ∧
    (at200 0xF015).fetch = some (encodeXKk 0xF 0 0x15) ∧ (at200 0xF018).fetch = some (encodeXKk 0xF 0 0x18) := by decide

/-- For NoStepWritesKeypadOrParameters and NoStepReadsTheSoundTimer. -/
theorem hyp_StepAnswersANextState :
    ∃ t, step (at200 0xF318) = .next t ∧ (at200 0xF318).halted = false ∧ t.halted = false :=
  ⟨_, rfl, by decide, by decide⟩

/-- A state that a fault left, and events of each kind that is no reset. -/
theorem hyp_OnlyResetLeavesTheHaltedState :
    (after (at200 0x00EE)).halted = true ∧
    ∀ e ∈ ([.step, .host .tick, .host (.keys (keysDown [3])), .step] : List Event), e.isReset = false := by decide

/-- A step and a tick after KEYS, and a state that fetches SKP. -/
theorem hyp_HostKeysAreWhatStepsRead :
    (∀ e ∈ ([.step, .host .tick] : List Event), e = .step ∨ e = .host .tick) ∧
    (at200 0xEF9E).halted = false ∧ (at200 0xEF9E).fetch = some (encodeXKk 0xE 15 0x9E) ∧
    (keysDown [0])[((at200 0xEF9E).getV 15).toNat % 16]? = some true := by decide

/-- Bytes and slots beside those written: of LD [I], Vx at the last byte before the wrap, and of CALL. -/
theorem hyp_EveryInstructionKeepsItsFrame :
    (∀ k < dataAccesses (.ldMiVx 1), (0x001 : Addr) ≠ dataAddr 0xFFF k) ∧
    (∀ k < dataAccesses (.ldBVx 0), (0xFFC : Addr) ≠ dataAddr 0xFFD k) ∧ 1 ≠ State.reset.sp.val := by decide

theorem hyp_SelfJumpIsTheEndOfARun : EndsWell 0x200 (at200 0x1200) :=
  ⟨by decide, by decide, 0x200, by decide, by decide⟩

theorem hyp_TickRunsTheTimerPhase :
    (external State.reset).params.timerSource = .externalTick ∧ (external State.reset).halted = false := by decide

theorem hyp_PlacedWordIsFetched :
    State.reset.mem.wf = true ∧ 65535 < 65536 ∧ State.reset.halted = false ∧ State.reset.pc.toNat ≤ 0xFFE ∧
    (0x202 : Addr) ≠ dataAddr 0x200 0 ∧ (0x202 : Addr) ≠ dataAddr 0x200 1 := by decide

/-- The invariant at reset and at a state that a fault left, so that a step and a host action have it to keep. -/
theorem hyp_EveryStepKeepsTheInvariant : State.reset.Inv ∧ ∃ t, step State.reset = .next t :=
  ⟨⟨by decide, ⟨rfl, rfl, rfl⟩, by decide, by decide, by decide, by decide⟩, _, rfl⟩

theorem hyp_EveryHostActionKeepsTheInvariant : (fetchFault (State.reset.setPc 0xFFF)).Inv :=
  ⟨by decide, ⟨rfl, rfl, rfl, by decide⟩, by decide, by decide, by decide, by decide⟩

end Sys2Proof.Tests
end

section
/-! What no step writes (spec 00 R7, 10 R32, 60 R203): the keypad and the block's parameters. The cases of a step come
first, then what every handler keeps; the reset of the default block (10 R39) stands at the end. -/

namespace Sys2Proof.Machine

/-- All that a step which answers a next state can have done, in the order of its checks (30 R78, 60 R198). -/
theorem step_cases {s t : State} (h : step s = .next t) :
    (s.halted = true ∧ t = s.clearReport) ∨
    (s.halted = false ∧ s.fetch = none ∧ t = fetchFault s) ∨
    (∃ w i u, s.halted = false ∧ s.fetch = some w ∧ decode w = .ok i ∧ exec i (beginStep s) = .next u ∧
      t = endStep u) ∨
    (∃ w e, s.halted = false ∧ s.fetch = some w ∧ decode w = .error e ∧
      t = endStep (unknownWord (beginStep s))) := by
  cases hh : s.halted with
  | true =>
    rw [step_of_halted hh] at h
    cases h
    exact .inl ⟨rfl, rfl⟩
  | false =>
    cases hf : s.fetch with
    | none =>
      rw [step_of_no_fetch hh hf] at h
      cases h
      exact .inr (.inl ⟨rfl, rfl, rfl⟩)
    | some w =>
      cases hd : decode w with
      | ok i =>
        rw [step_of_instr hh hf hd, finishStep_eq_next] at h
        obtain ⟨u, hu, ht⟩ := h
        exact .inr (.inr (.inl ⟨w, i, u, rfl, rfl, hd, hu, ht⟩))
      | error e =>
        rw [step_of_unknown hh hf hd] at h
        cases h
        exact .inr (.inr (.inr ⟨w, e, rfl, rfl, hd, rfl⟩))

/-! ## The parts of a step around a handler -/

@[simp] theorem clearReport_key (s : State) : s.clearReport.key = s.key := rfl
@[simp] theorem clearReport_params (s : State) : s.clearReport.params = s.params := rfl

@[simp] theorem takeHandlerFault_key (s : State) (c : FaultCode) (i : Instr) :
    (s.takeHandlerFault c i).key = s.key := rfl
@[simp] theorem takeHandlerFault_params (s : State) (c : FaultCode) (i : Instr) :
    (s.takeHandlerFault c i).params = s.params := rfl

@[simp] theorem fetchFault_key (s : State) : (fetchFault s).key = s.key := rfl
@[simp] theorem fetchFault_params (s : State) : (fetchFault s).params = s.params := rfl

@[simp] theorem beginStep_key (s : State) : (beginStep s).key = s.key := rfl
@[simp] theorem beginStep_params (s : State) : (beginStep s).params = s.params := rfl

@[simp] theorem unknownWord_key (s : State) : (unknownWord s).key = s.key := rfl
@[simp] theorem unknownWord_params (s : State) : (unknownWord s).params = s.params := rfl

@[simp] theorem endStep_key (s : State) : (endStep s).key = s.key := by simp [endStep_fields]
@[simp] theorem endStep_params (s : State) : (endStep s).params = s.params := by simp [endStep_fields]

/-! ## The handlers -/

/-- The handlers with two outcomes are split on their condition; each other one writes pieces of state by name, none of
them the keypad or the parameters. -/
theorem exec_keeps_key_params {i : Instr} {s t : State} (h : exec i s = .next t) :
    t.key = s.key ∧ t.params = s.params := by
  cases i with
  | ret =>
    rcases Nat.eq_zero_or_pos s.sp.val with hsp | hsp
    · rw [exec_ret_of_empty hsp] at h
      cases h
      simp
    · rw [exec_ret_of_pos hsp] at h
      cases h
      simp
  | call nnn =>
    rcases Nat.lt_or_eq_of_le (Nat.le_of_lt_succ s.sp.isLt) with hsp | hsp
    · rw [exec_call_of_lt nnn hsp] at h
      cases h
      simp
    · rw [exec_call_of_full nnn hsp] at h
      cases h
      simp
  | ldVxK x =>
    cases hk : firstKey s.key with
    | some k =>
      rw [exec_ldVxK_of_some x hk] at h
      cases h
      simp
    | none =>
      rw [exec_ldVxK_of_none x hk] at h
      cases h
      simp
  | _ =>
    cases h
    exact ⟨rfl, rfl⟩

/-! ## The statements -/

/-- Settles O43, by the cases of a step: the handler's case is `exec_keeps_key_params`, the others write the report, `pc`,
the fault status and the timers at most. -/
theorem noStepWritesKeypadOrParameters : Obligations.NoStepWritesKeypadOrParameters := by
  intro s t h
  obtain ⟨-, rfl⟩ | ⟨-, -, rfl⟩ | ⟨w, i, u, -, -, -, hu, rfl⟩ | ⟨w, e, -, -, -, rfl⟩ := step_cases h
  · simp
  · simp
  · simpa using exec_keeps_key_params hu
  · simp

/-- The default font is what unlisted memory reads as, so storing it at reset lists nothing. -/
theorem storeBytes_defaultFont : storeBytes 0 0 defaultFont.toList [] = [] := by decide

/-- Settles O48: the default block's FONT leaves memory unlisted, and `resetWith` changes nothing else of `State.reset`. -/
theorem modelsResetIsTheDefaultBlocks : Obligations.ModelsResetIsTheDefaultBlocks := by
  refine ⟨?_, rfl, rfl⟩
  rw [resetWith, show defaultParams.font = defaultFont from rfl, storeBytes_defaultFont]
  rfl

end Sys2Proof.Machine
end

section
/-! Facts about the parts of a step and the host's TICK that the proofs below share. -/

namespace Sys2Proof.Machine

/-- The stack pointer names a free slot, or the stack is full (10 R29). -/
theorem sp_lt_or_full (s : State) : s.sp.val < 16 ∨ s.sp.val = 16 := by omega

theorem skipIf_pc (s : State) (c : Bool) : (s.skipIf c).pc = if c then s.pc + 2 else s.pc := rfl

@[simp] theorem endStep_pc (s : State) : (endStep s).pc = s.pc := by simp [endStep_fields]

theorem endStep_of_counts {s : State} (h : s.halted = false ∧ s.params.timerSource = .perStep) :
    endStep s = timerPhase s := by rw [endStep_eq, if_pos h]

theorem endStep_of_not_counts {s : State} (h : ¬(s.halted = false ∧ s.params.timerSource = .perStep)) :
    endStep s = s := by rw [endStep_eq, if_neg h]

/-- TICK is the timer phase of a running block, or nothing (60 R212, R213). -/
theorem tick_cases (s : State) : tick s = s ∨ (s.halted = false ∧ tick s = timerPhase s) := by
  unfold tick
  cases s.params.timerSource <;> cases s.halted <;> simp

theorem addrWord_toNat (nnn : Addr) : (addrWord nnn).toNat = nnn.toNat :=
  BitVec.toNat_setWidth_of_le (by decide)

/-- The key that a key skip tests, by its number (44 R170). -/
theorem key_pressed_iff (key : Vector Bool 16) (b : Byte) :
    key[b.toNat % 16]? = some true ↔ key[keyIndex b] = true := by
  rw [Vector.getElem?_eq_getElem (Nat.mod_lt _ (by decide)), Option.some_inj]
  rfl

end Sys2Proof.Machine
end

section
/-! The word of a decoded instruction is its encoding (spec 30 R73, R76): a fault's FAULT_WORD, which a handler writes as
the encoding of its instruction, is the word that was fetched (log entry 9). -/

namespace Sys2Proof

/-! ## A word from the fields that its decoder tests and those it hands on -/

theorem encodeNnn_eq {w : Word} {f : BitVec 4} (hf : fieldFamily w = f) : encodeNnn f (fieldNnn w) = w := by
  rw [← hf, encodeNnn_fields]

theorem encodeXKk_eq {w : Word} {f : BitVec 4} {kk : Byte} (hf : fieldFamily w = f) (hk : fieldKk w = kk) :
    encodeXKk f (fieldX w) kk = w := by
  rw [← hf, ← hk, encodeXKk_fields]

theorem encodeXyN_eq {w : Word} {f n : BitVec 4} (hf : fieldFamily w = f) (hn : fieldN w = n) :
    encodeXyN f (fieldX w) (fieldY w) n = w := by
  rw [← hf, ← hn, encodeXyN_fields]

/-! ## The four families with a second level (30 R75), then all -/

theorem encode_of_decodeFamily0 {w : Word} {i : Instr} (h : decodeFamily0 w = .ok i) : encode i = w := by
  simp only [decodeFamily0] at h
  split at h
  · cases h; exact (‹w = _›).symm
  · split at h
    · cases h; exact (‹w = _›).symm
    · cases h

theorem encode_of_decodeFamily8 {w : Word} {i : Instr} (hf : fieldFamily w = 0x8) (h : decodeFamily8 w = .ok i) :
    encode i = w := by
  simp only [decodeFamily8] at h
  split at h <;> cases h <;> exact encodeXyN_eq hf ‹_›

theorem encode_of_decodeFamilyE {w : Word} {i : Instr} (hf : fieldFamily w = 0xE) (h : decodeFamilyE w = .ok i) :
    encode i = w := by
  simp only [decodeFamilyE] at h
  split at h <;> cases h <;> exact encodeXKk_eq hf ‹_›

theorem encode_of_decodeFamilyF {w : Word} {i : Instr} (hf : fieldFamily w = 0xF) (h : decodeFamilyF w = .ok i) :
    encode i = w := by
  simp only [decodeFamilyF] at h
  split at h <;> cases h <;> exact encodeXKk_eq hf ‹_›

/-- The arms of `decode` stand in the order of the families, `h_1` for family 0 to `h_16` for family F. -/
theorem encode_of_decode {w : Word} {i : Instr} (h : decode w = .ok i) : encode i = w := by
  unfold decode at h
  split at h
  case h_1 => exact encode_of_decodeFamily0 h
  case h_9 hf => exact encode_of_decodeFamily8 hf h
  case h_15 hf => exact encode_of_decodeFamilyE hf h
  case h_16 =>
    have hf : fieldFamily w = 0xF := by have := nibble_cases (fieldFamily w); simp_all
    exact encode_of_decodeFamilyF hf h
  case h_6 hf | h_10 hf =>
    split at h <;> cases h
    exact encodeXyN_eq hf ‹_›
  case h_14 hf =>
    cases h
    rw [encode, BitVec.ofNat_toNat, BitVec.setWidth_eq]
    exact encodeXyN_eq hf rfl
  case h_2 hf | h_3 hf | h_11 hf | h_12 hf => cases h; exact encodeNnn_eq hf
  case h_4 hf | h_5 hf | h_7 hf | h_8 hf | h_13 hf => cases h; exact encodeXKk_eq hf rfl

end Sys2Proof
end

section
/-! The invariant (spec 10 R25, R35, 41 R112, 60 R193, R194, R198): what a handler can do to the pieces of state that it
speaks of, then that every part of a step keeps it. -/

namespace Sys2Proof.Machine

/-! ## What a handler can do to the pieces of state the invariant speaks of -/

/-- Where `pc` may stand after a handler that raises no fault. -/
inductive NextPc (s : State) : Word → Prop
  | stays : NextPc s s.pc
  | skips : NextPc s (s.pc + 2)
  | rewinds : NextPc s (s.pc - 2)
  | returns (j : Fin 16) : NextPc s s.stack[j]
  | jumps {w : Word} (h : w.toNat ≤ 0x10FE) : NextPc s w

/-- From `s` to `t` a handler raised no fault: the fault status and the rest of the report stay, memory changes by a store
at `I` at most, the stack by a push of `pc` at most. -/
structure RaisesNoFault (s t : State) : Prop where
  faultStatus : Part.faultStatus.Same s t
  fault : t.report.fault = s.report.fault
  unknown : t.report.unknownInstruction = s.report.unknownInstruction
  mem : t.mem = s.mem ∨ ∃ bs, t.mem = storeBytes s.index 0 bs s.mem
  stack : t.stack = s.stack ∨ ∃ h : s.sp.val < 16, t.stack = s.stack.set s.sp.val s.pc
  pc : NextPc s t.pc

section
variable {s t : State}

/-- A handler that writes at most `pc` of these. -/
theorem raisesNoFault_of_nextPc (hp : NextPc s t.pc) (hm : t.mem = s.mem := by rfl) (hk : t.stack = s.stack := by rfl)
    (hs : Part.faultStatus.Same s t := by exact ⟨rfl, rfl, rfl, rfl⟩) (hf : t.report.fault = s.report.fault := by rfl)
    (hu : t.report.unknownInstruction = s.report.unknownInstruction := by rfl) : RaisesNoFault s t :=
  ⟨hs, hf, hu, .inl hm, .inl hk, hp⟩

theorem raisesNoFault_skipIf (c : Bool) : RaisesNoFault s (s.skipIf c) :=
  raisesNoFault_of_nextPc (by cases c; exacts [.stays, .skips])

theorem raisesNoFault_store (bs : List Byte) (n : Nat) :
    RaisesNoFault s ((s.setMem (storeBytes s.index 0 bs s.mem)).noteWrap n) :=
  ⟨⟨rfl, rfl, rfl, rfl⟩, rfl, rfl, .inr ⟨bs, rfl⟩, .inl rfl, .stays⟩

theorem addrWord_le (nnn : Addr) : (addrWord nnn).toNat ≤ 0x10FE := by
  rw [addrWord_toNat]; omega

/-- The largest sum of V0 and an address (41 R117). -/
theorem jumpTarget_le (b : Byte) (nnn : Addr) : (byteWord b + addrWord nnn).toNat ≤ 0x10FE := by
  have hb : (byteWord b).toNat = b.toNat := BitVec.toNat_setWidth_of_le (by decide)
  rw [BitVec.toNat_add, hb, addrWord_toNat]
  omega

theorem raisesNoFault_push (h : s.sp.val < 16) (p : Fin 17) (nnn : Addr) :
    RaisesNoFault s ((s.setCalls (s.stack.set s.sp.val s.pc) p).setPc (addrWord nnn)) :=
  ⟨⟨rfl, rfl, rfl, rfl⟩, rfl, rfl, .inl rfl, .inr ⟨h, rfl⟩, .jumps (addrWord_le nnn)⟩

end

/-- RET with an empty stack and CALL with a full one raise their faults; every other handler raises none. -/
theorem exec_cases {i : Instr} {s t : State} (h : exec i s = .next t) :
    (i = .ret ∧ s.sp = 0 ∧ t = s.takeHandlerFault .stackUnderflow i) ∨
    ((∃ nnn, i = .call nnn) ∧ s.sp = 16 ∧ t = s.takeHandlerFault .stackOverflow i) ∨
    RaisesNoFault s t := by
  cases i with
  | ret =>
    rcases Nat.eq_zero_or_pos s.sp.val with hsp | hsp
    · rw [exec_ret_of_empty hsp] at h
      cases h
      exact .inl ⟨rfl, Fin.ext hsp, rfl⟩
    · rw [exec_ret_of_pos hsp] at h
      cases h
      exact .inr (.inr (raisesNoFault_of_nextPc (.returns ⟨s.sp.val - 1, by omega⟩)))
  | call nnn =>
    rcases sp_lt_or_full s with hsp | hsp
    · rw [exec_call_of_lt nnn hsp] at h
      cases h
      exact .inr (.inr (raisesNoFault_push hsp _ nnn))
    · rw [exec_call_of_full nnn hsp] at h
      cases h
      exact .inr (.inl ⟨⟨nnn, rfl⟩, Fin.ext hsp, rfl⟩)
  | ldVxK x =>
    cases hk : firstKey s.key with
    | some k =>
      rw [exec_ldVxK_of_some x hk] at h
      cases h
      exact .inr (.inr (raisesNoFault_of_nextPc .stays))
    | none =>
      rw [exec_ldVxK_of_none x hk] at h
      cases h
      exact .inr (.inr (raisesNoFault_of_nextPc .rewinds))
  | jpNnn nnn => cases h; exact .inr (.inr (raisesNoFault_of_nextPc (.jumps (addrWord_le nnn))))
  | jpV0Nnn nnn => cases h; exact .inr (.inr (raisesNoFault_of_nextPc (.jumps (jumpTarget_le _ nnn))))
  | seVxKk | sneVxKk | seVxVy | sneVxVy | skp | sknp => cases h; exact .inr (.inr (raisesNoFault_skipIf _))
  | ldBVx | ldMiVx => cases h; exact .inr (.inr (raisesNoFault_store _ _))
  | _ =>
    cases h
    exact .inr (.inr (raisesNoFault_of_nextPc .stays))

/-! ## What does not touch the invariant -/

/-- The invariant does not speak of the timers, the keypad or the count of bytes drawn. -/
theorem inv_setTimers (s : State) (d e : Byte) : (s.setTimers d e).Inv ↔ s.Inv := Iff.rfl
theorem inv_setKeys (s : State) (key : Vector Bool 16) : (s.setKeys key).Inv ↔ s.Inv := Iff.rfl
theorem inv_setDraws (s : State) (n : Nat) : (s.setDraws n).Inv ↔ s.Inv := Iff.rfl

theorem Report.exclusive_fault (c : FaultCode) : Report.Exclusive ⟨c, false, false⟩ := by simp [Report.Exclusive]

theorem Report.exclusive_empty : Report.empty.Exclusive := Report.exclusive_fault .none

theorem Report.exclusive_unknown : Report.Exclusive ⟨.none, true, false⟩ := by simp [Report.Exclusive]

theorem Report.exclusive_wrapped {r : Report} (hf : r.fault = .none) (hu : r.unknownInstruction = false) :
    r.Exclusive := by simp [Report.Exclusive, hf, hu]

/-- A new report, an exclusive one, is all of the invariant that a change of the report can break. -/
theorem inv_setReport {s : State} {r : Report} (hi : s.Inv) (hr : r.Exclusive) : (s.setReport r).Inv :=
  have ⟨hm, hs, hk, hpc, _⟩ := hi
  ⟨hm, hs, hk, hpc, hr⟩

theorem inv_endStep {s : State} (hi : s.Inv) : (endStep s).Inv := by
  rw [endStep_eq]
  split
  · exact (inv_setTimers s _ _).2 hi
  · exact hi

theorem inv_unknownWord {s : State} (hi : s.Inv) (hr : s.report = .empty) : (unknownWord s).Inv :=
  inv_setReport hi (by rw [hr]; exact Report.exclusive_unknown)

/-! ## A step that raises no fault -/

/-- The fault status of a block that runs is clear. -/
theorem faultStatusTrue_iff_of_running {s : State} (hh : s.halted = false) :
    FaultStatusTrue s ↔ s.faultCode = .none ∧ s.faultPc = 0 ∧ s.faultWord = 0 := by
  unfold FaultStatusTrue
  split <;> simp [*]

theorem FaultStatusTrue.of_same {s t : State} (h : FaultStatusTrue s) (hh : s.halted = false)
    (hst : Part.faultStatus.Same s t) : FaultStatusTrue t := by
  obtain ⟨hth, htc, htp, htw⟩ := hst
  rw [faultStatusTrue_iff_of_running (hth.trans hh), htc, htp, htw]
  exact (faultStatusTrue_iff_of_running hh).1 h

/-- After a fetch the advance does not wrap (30 R79, R80). -/
theorem beginStep_pc_toNat {s : State} {w : Word} (hf : s.fetch = some w) :
    (beginStep s).pc.toNat = s.pc.toNat + 2 := by
  have hpc := ((fetch_eq_some s w).1 hf).1
  show (s.pc + 2).toNat = s.pc.toNat + 2
  bv_omega

theorem inv_beginStep {s : State} {w : Word} (hi : s.Inv) (hh : s.halted = false) (hf : s.fetch = some w) :
    (beginStep s).Inv := by
  obtain ⟨hm, hs, hk, -, -⟩ := hi
  have hpc := ((fetch_eq_some s w).1 hf).1
  refine ⟨hm, hs.of_same hh ⟨rfl, rfl, rfl, rfl⟩, hk, ?_, Report.exclusive_empty⟩
  rw [beginStep_pc_toNat hf]; omega

theorem NextPc.toNat_le {s : State} {w : Word} (h : NextPc s w) (hk : ∀ j : Fin 16, s.stack[j].toNat ≤ 0x1000)
    (hlo : 2 ≤ s.pc.toNat) (hhi : s.pc.toNat ≤ 0x1000) : w.toNat ≤ 0x10FE := by
  cases h with
  | stays => omega
  | skips => bv_omega
  | rewinds => bv_omega
  | returns j => exact Nat.le_trans (hk j) (by decide)
  | jumps hw => exact hw

/-- A handler that raises no fault keeps the invariant of a running block that has just fetched. -/
theorem RaisesNoFault.inv {s t : State} (h : RaisesNoFault s t) (hi : s.Inv) (hh : s.halted = false)
    (hr : s.report = .empty) (hlo : 2 ≤ s.pc.toNat) (hhi : s.pc.toNat ≤ 0x1000) : t.Inv := by
  obtain ⟨hm, hs, hk, -, -⟩ := hi
  obtain ⟨hst, hfault, hunk, hmem, hstack, hpc⟩ := h
  refine ⟨?_, hs.of_same hh hst, ?_, hpc.toNat_le hk hlo hhi, ?_⟩
  · obtain hmem | ⟨bs, hmem⟩ := hmem
    · rwa [hmem]
    · rw [hmem]; exact storeBytes_wf _ _ _ _ hm
  · intro j
    obtain hstack | ⟨hsp, hstack⟩ := hstack
    · rw [hstack]; exact hk j
    · rw [hstack, Fin.getElem_fin, Vector.getElem_set]
      split
      · exact hhi
      · exact hk j
  · exact Report.exclusive_wrapped (by rw [hfault, hr]; rfl) (by rw [hunk, hr]; rfl)

/-! ## A step that raises a fault -/

/-- A step's fault raised by its handler latches `pc` as the step found it (60 R193). -/
theorem takeHandlerFault_beginStep (s : State) (c : FaultCode) (i : Instr) :
    (beginStep s).takeHandlerFault c i =
      (s.setFaultStatus true c s.pc (encode i)).setReport ⟨c, false, false⟩ := by
  simp only [State.takeHandlerFault, State.takeFault, beginStep, State.setPc_pc, BitVec.add_sub_cancel]
  rfl

theorem fetchFault_eq (s : State) :
    fetchFault s = (s.setFaultStatus true .fetchOutOfRange s.pc 0).setReport ⟨.fetchOutOfRange, false, false⟩ := rfl

/-- A fault latched keeps the invariant when the new status is true. -/
theorem inv_latch {s : State} {c : FaultCode} {w : Word} (hi : s.Inv)
    (hs : FaultStatusTrue (s.setFaultStatus true c s.pc w)) :
    ((s.setFaultStatus true c s.pc w).setReport ⟨c, false, false⟩).Inv := by
  obtain ⟨hm, -, hk, hpc, -⟩ := hi
  exact ⟨hm, hs, hk, hpc, Report.exclusive_fault c⟩

/-! ## A step -/

theorem inv_step_instr {s u : State} {w : Word} {i : Instr} (hi : s.Inv) (hh : s.halted = false)
    (hf : s.fetch = some w) (hd : decode w = .ok i) (hu : exec i (beginStep s) = .next u) : u.Inv := by
  have hw : encode i = w := encode_of_decode hd
  obtain ⟨rfl, hsp, rfl⟩ | ⟨⟨nnn, rfl⟩, hsp, rfl⟩ | hn := exec_cases hu
  · rw [takeHandlerFault_beginStep, hw]
    exact inv_latch hi ⟨rfl, rfl, hf, hsp, hw.symm⟩
  · rw [takeHandlerFault_beginStep, hw]
    exact inv_latch hi ⟨rfl, rfl, hf, hsp, nnn, hd⟩
  · have hpc := ((fetch_eq_some s w).1 hf).1
    have hpc' := beginStep_pc_toNat hf
    exact hn.inv (inv_beginStep hi hh hf) hh rfl (by omega) (by omega)

/-- Settles O55, by the cases of a step: a halted block reports nothing; a fault of the fetch or of the handler latches a
true status; a handler that raises no fault, and an unknown word, keep the invariant of the state after the advance. -/
theorem everyStepKeepsTheInvariant : Obligations.EveryStepKeepsTheInvariant := by
  intro s t hi h
  obtain ⟨-, rfl⟩ | ⟨-, hf, rfl⟩ | ⟨w, i, u, hh, hf, hd, hu, rfl⟩ | ⟨w, e, hh, hf, -, rfl⟩ := step_cases h
  · exact inv_setReport hi Report.exclusive_empty
  · rw [fetchFault_eq]
    exact inv_latch hi ⟨rfl, rfl, rfl, hf⟩
  · exact inv_endStep (inv_step_instr hi hh hf hd hu)
  · exact inv_endStep (inv_unknownWord (inv_beginStep hi hh hf) rfl)

/-! ## Reset, host actions and runs -/

/-- Settles O54: nothing is listed, no fault is latched, every return address is 0, and `pc` is 0x200. -/
theorem resetHasTheInvariant : Obligations.ResetHasTheInvariant := by
  refine ⟨Memory.wf_reset, ⟨rfl, rfl, rfl⟩, fun j => ?_, by decide, Report.exclusive_empty⟩
  simp [State.reset]

/-- The memory of a running block may be any in canonical form. -/
theorem inv_setMem {s : State} {m : Memory} (hi : s.Inv) (hh : s.halted = false) (hm : m.wf = true) :
    (s.setMem m).Inv := by
  obtain ⟨-, hs, hk, hpc, hr⟩ := hi
  exact ⟨hm, hs.of_same hh ⟨rfl, rfl, rfl, rfl⟩, hk, hpc, hr⟩

theorem inv_resetWith (p : Params) : (resetWith p).Inv :=
  inv_setMem (s := { State.reset with params := p }) resetHasTheInvariant rfl (storeBytes_wf _ _ _ _ rfl)

theorem loadFrom_wf (a : Nat) (bs : List Byte) (m : Memory) (h : m.wf = true) : (loadFrom a bs m).1.wf = true := by
  induction bs generalizing a m with
  | nil => exact h
  | cons b bs ih =>
    rw [loadFrom]
    split
    · exact h
    · exact ih _ _ (Memory.wf_write _ _ _ h)

theorem inv_boot (p : Params) (program : List Byte) : (boot p program).1.Inv := by
  have hm : (resetWith p).mem.wf = true := storeBytes_wf _ _ _ _ rfl
  exact inv_setMem (inv_resetWith p) rfl (loadFrom_wf _ _ _ hm)

theorem inv_act (a : HostAction) {s : State} (hi : s.Inv) : (act a s).Inv := by
  cases a with
  | reset => exact (inv_setDraws _ _).2 (inv_resetWith s.params)
  | boot program => exact (inv_setDraws _ _).2 (inv_boot s.params program)
  | keys key => exact (inv_setKeys s key).2 hi
  | tick =>
    rw [act]
    obtain ht | ⟨-, ht⟩ := tick_cases s
    · rwa [ht]
    · rw [ht]; exact (inv_setTimers s _ _).2 hi

theorem inv_applyEvent (e : Event) {s : State} (hi : s.Inv) : (applyEvent e s).Inv := by
  cases e with
  | host a => exact inv_act a hi
  | step =>
    cases h : step s with
    | next t => simpa only [applyEvent, h] using everyStepKeepsTheInvariant s t hi h
    | fault r => simpa only [applyEvent, h] using hi
    | refused r => simpa only [applyEvent, h] using hi

theorem inv_runEvents (es : List Event) {s : State} (hi : s.Inv) : (runEvents es s).Inv := by
  induction es generalizing s with
  | nil => exact hi
  | cons e es ih => exact ih (inv_applyEvent e hi)

/-- Settles O57: the booted state has the invariant and every event keeps it. -/
theorem everyRunKeepsTheInvariant : Obligations.EveryRunKeepsTheInvariant := fun p program es =>
  inv_runEvents es (inv_boot p program)

end Sys2Proof.Machine
end

section
/-! The frame of every instruction (spec 10 R23): what one update writes, how frames compose, then the handlers. -/

namespace Sys2Proof.Machine

/-! ## Frames compose -/

theorem Part.same_trans {p : Part} {s t u : State} (h : p.Same s t) (k : p.Same t u) : p.Same s u := by
  cases p <;> simp_all [Part.Same]

section
variable {regs regs' : List Reg} {parts parts' : List Part} {s t u : State}

theorem OnlyWrites.trans (h : OnlyWrites regs parts s t) (k : OnlyWrites regs' parts' t u) :
    OnlyWrites (regs ++ regs') (parts ++ parts') s u := by
  obtain ⟨hr, hp, hk, hq⟩ := h
  obtain ⟨kr, kp, kk, kq⟩ := k
  refine ⟨fun r hn => ?_, fun p hn => ?_, kk.trans hk, kq.trans hq⟩
  · simp only [List.mem_append, not_or] at hn
    exact (kr r hn.2).trans (hr r hn.1)
  · simp only [List.mem_append, not_or] at hn
    exact Part.same_trans (hp p hn.1) (kp p hn.2)

theorem OnlyWrites.mono (h : OnlyWrites regs parts s t) (hr : regs ⊆ regs') (hp : parts ⊆ parts') :
    OnlyWrites regs' parts' s t := by
  obtain ⟨kr, kp, kk, kq⟩ := h
  exact ⟨fun r hn => kr r fun hm => hn (hr hm), fun p hn => kp p fun hm => hn (hp hm), kk, kq⟩

/-- Writing pieces of state and no register; for one update each premise holds field by field. -/
theorem onlyWrites_parts (hp : ∀ p, p ∉ parts → p.Same s t := by intro p hp; cases p <;> simp_all [Part.Same])
    (hv : t.v = s.v := by rfl) (hk : t.key = s.key := by rfl) (hq : t.params = s.params := by rfl) :
    OnlyWrites [] parts s t :=
  ⟨fun r _ => by simp only [State.getV, hv], hp, hk, hq⟩

end

/-! ## What one update writes -/

section
variable (s : State)

theorem onlyWrites_setV (x : Reg) (b : Byte) : OnlyWrites [x] [] s (s.setV x b) :=
  ⟨fun _ hr => s.getV_setV_ne (by simpa using hr) b, fun p _ => by cases p <;> simp [Part.Same], rfl, rfl⟩

/-- Only the registers of the list differ. -/
theorem onlyWrites_setRegs {regs : List Reg} {v : Vector Byte 16} (h : ∀ r ∉ regs, v[r] = s.getV r) :
    OnlyWrites regs [] s (s.setRegs v) :=
  ⟨h, fun p _ => by cases p <;> simp [Part.Same], rfl, rfl⟩

theorem onlyWrites_setIndex (w : Word) : OnlyWrites [] [.index] s (s.setIndex w) := onlyWrites_parts

theorem onlyWrites_setPc (w : Word) : OnlyWrites [] [.pc] s (s.setPc w) := onlyWrites_parts

theorem onlyWrites_setMem (m : Memory) : OnlyWrites [] [.memory] s (s.setMem m) := onlyWrites_parts

theorem onlyWrites_setCalls (stack : Vector Word 16) (sp : Fin 17) :
    OnlyWrites [] [.stack, .sp] s (s.setCalls stack sp) := onlyWrites_parts

/-- A return moves the stack pointer and leaves every slot (10 R28). -/
theorem onlyWrites_setSp (sp : Fin 17) : OnlyWrites [] [.sp] s (s.setCalls s.stack sp) := onlyWrites_parts

theorem onlyWrites_setDt (b : Byte) : OnlyWrites [] [.dt] s (s.setTimers b s.st) := onlyWrites_parts

theorem onlyWrites_setSt (b : Byte) : OnlyWrites [] [.st] s (s.setTimers s.dt b) := onlyWrites_parts

theorem onlyWrites_setScreen (fb : Screen) : OnlyWrites [] [.screen] s (s.setScreen fb) := onlyWrites_parts

theorem onlyWrites_setFaultStatus (h : Bool) (c : FaultCode) (p w : Word) :
    OnlyWrites [] [.faultStatus] s (s.setFaultStatus h c p w) := onlyWrites_parts

theorem onlyWrites_setReport (r : Report) : OnlyWrites [] [.report] s (s.setReport r) := onlyWrites_parts

theorem onlyWrites_setDraws (n : Nat) : OnlyWrites [] [.draws] s (s.setDraws n) := onlyWrites_parts

/-! ## What the operations that handlers share write -/

theorem onlyWrites_noteWrap (n : Nat) : OnlyWrites [] [.report] s (s.noteWrap n) := onlyWrites_setReport s _

theorem onlyWrites_skipIf (c : Bool) : OnlyWrites [] [.pc] s (s.skipIf c) := onlyWrites_setPc s _

theorem onlyWrites_takeHandlerFault (c : FaultCode) (i : Instr) :
    OnlyWrites [] [.pc, .faultStatus, .report] s (s.takeHandlerFault c i) :=
  ((onlyWrites_setPc s _).trans (onlyWrites_setFaultStatus _ _ _ _ _)).trans (onlyWrites_setReport _ _)

/-- A result, and VF after it. -/
theorem onlyWrites_setV_setVF (x : Reg) (b c : Byte) : OnlyWrites [x, 15] [] s ((s.setV x b).setV 15 c) :=
  (onlyWrites_setV s x b).trans (onlyWrites_setV _ 15 c)

/-- VF, and a result after it. -/
theorem onlyWrites_setVF_setV (x : Reg) (b c : Byte) : OnlyWrites [x, 15] [] s ((s.setV 15 c).setV x b) :=
  ((onlyWrites_setV s 15 c).trans (onlyWrites_setV _ x b)).mono (by simp) (by simp)

theorem onlyWrites_loadRegs (base : Word) (x : Reg) :
    OnlyWrites ((List.finRange 16).take (x.val + 1)) [] s (s.setRegs (loadRegs s.mem base x s.v)) :=
  onlyWrites_setRegs s fun r hr => by
    have hx : ¬ r ≤ x := fun hle => hr ((mem_take_finRange _ r).2 (Nat.lt_succ_of_le hle))
    rw [loadRegs_getElem, if_neg hx, State.getV]

end

/-! ## The handlers -/

theorem exec_onlyWrites (i : Instr) (s : State) : Completes i s (OnlyWrites (writtenRegs i) (writtenParts i) s) := by
  cases i with
  | ret =>
    rcases Nat.eq_zero_or_pos s.sp.val with hsp | hsp
    · exact ⟨_, exec_ret_of_empty hsp, (onlyWrites_takeHandlerFault s _ _).mono (by simp) (by simp [writtenParts])⟩
    · exact ⟨_, exec_ret_of_pos hsp,
        ((onlyWrites_setSp s _).trans (onlyWrites_setPc _ _)).mono (by simp) (by simp [writtenParts])⟩
  | call nnn =>
    rcases sp_lt_or_full s with hsp | hsp
    · exact ⟨_, exec_call_of_lt nnn hsp,
        ((onlyWrites_setCalls s _ _).trans (onlyWrites_setPc _ _)).mono (by simp) (by simp [writtenParts])⟩
    · exact ⟨_, exec_call_of_full nnn hsp,
        (onlyWrites_takeHandlerFault s _ _).mono (by simp) (by simp [writtenParts])⟩
  | ldVxK x =>
    cases hk : firstKey s.key with
    | some k => exact ⟨_, exec_ldVxK_of_some x hk, (onlyWrites_setV s x _).mono (by simp [writtenRegs]) (by simp)⟩
    | none => exact ⟨_, exec_ldVxK_of_none x hk, (onlyWrites_setPc s _).mono (by simp) (by simp [writtenParts])⟩
  | cls => exact ⟨_, rfl, onlyWrites_setScreen s _⟩
  | jpNnn | jpV0Nnn => exact ⟨_, rfl, onlyWrites_setPc s _⟩
  | seVxKk | sneVxKk | seVxVy | sneVxVy | skp | sknp => exact ⟨_, rfl, onlyWrites_skipIf s _⟩
  | ldVxKk | addVxKk | ldVxVy | ldVxDt => exact ⟨_, rfl, onlyWrites_setV s _ _⟩
  | orVxVy | andVxVy | xorVxVy => exact ⟨_, rfl, onlyWrites_setV_setVF s _ _ _⟩
  | addVxVy | subVxVy | shrVxVy | subnVxVy | shlVxVy => exact ⟨_, rfl, onlyWrites_setVF_setV s _ _ _⟩
  | rnd => exact ⟨_, rfl, (onlyWrites_setV s _ _).trans (onlyWrites_setDraws _ _)⟩
  | drw =>
    exact ⟨_, rfl, ((onlyWrites_setV s 15 _).trans (onlyWrites_setScreen _ _)).trans (onlyWrites_noteWrap _ _)⟩
  | ldDtVx => exact ⟨_, rfl, onlyWrites_setDt s _⟩
  | ldStVx => exact ⟨_, rfl, onlyWrites_setSt s _⟩
  | ldINnn | addIVx | ldFVx => exact ⟨_, rfl, onlyWrites_setIndex s _⟩
  | ldBVx | ldMiVx => exact ⟨_, rfl, (onlyWrites_setMem s _).trans (onlyWrites_noteWrap _ _)⟩
  | ldVxMi x =>
    exact ⟨_, rfl,
      ((onlyWrites_loadRegs s _ x).trans (onlyWrites_noteWrap _ _)).mono (by simp [writtenRegs]) (by simp [writtenParts])⟩

/-- LD B and LD [I], Vx store at `I` on; the frame of every other instruction has no byte of memory in it. -/
theorem exec_read_outside {i : Instr} {s t : State} (h : exec i s = .next t)
    (hw : OnlyWrites (writtenRegs i) (writtenParts i) s t) {a : Addr}
    (ha : ∀ k < dataAccesses i, a ≠ dataAddr s.index k) : t.mem.read a = s.mem.read a := by
  cases i with
  | ldBVx x =>
    cases h
    exact storeBytes_read_outside _ _ _ _ _ fun j hj => by simpa using ha j hj
  | ldMiVx x =>
    cases h
    refine storeBytes_read_outside _ _ _ _ _ fun j hj => ?_
    rw [Nat.zero_add]
    exact ha j (Nat.lt_of_lt_of_le hj (List.length_take_le _ _))
  | _ =>
    obtain ⟨-, hparts, -, -⟩ := hw
    exact hparts .memory (by simp [writtenParts]) a

/-- CALL writes the slot at SP; the frame of every other instruction has no slot in it. -/
theorem exec_stack_outside {i : Instr} {s t : State} (h : exec i s = .next t)
    (hw : OnlyWrites (writtenRegs i) (writtenParts i) s t) {j : Nat} (hj : j ≠ s.sp.val) :
    t.stack[j]? = s.stack[j]? := by
  cases i with
  | call nnn =>
    rcases sp_lt_or_full s with hsp | hsp
    · rw [exec_call_of_lt nnn hsp] at h
      cases h
      exact Vector.getElem?_set_ne hsp hj.symm
    · rw [exec_call_of_full nnn hsp] at h
      cases h
      rfl
  | _ =>
    obtain ⟨-, hparts, -, -⟩ := hw
    have hstack : t.stack = s.stack := hparts .stack (by simp [writtenParts])
    rw [hstack]

/-- Settles O42: each handler is a composition of updates whose frames are known, and the stores and CALL's push write at
their own addresses and slot only. -/
theorem everyInstructionKeepsItsFrame : Obligations.EveryInstructionKeepsItsFrame := by
  intro i s
  obtain ⟨t, ht, hw⟩ := exec_onlyWrites i s
  exact ⟨t, ht, hw, fun a ha => exec_read_outside ht hw ha, fun j hj => exec_stack_outside ht hw hj⟩

end Sys2Proof.Machine
end

section
/-! Memory as data (spec 10 R34, 20 R50), and what reset leaves (10 R39, 70 R230 to R232). -/

namespace Sys2Proof.Machine

/-! ## Canonical memories that read alike are equal -/

/-- The first cell of a canonical memory tells it from every memory that lists only higher addresses. -/
theorem Memory.lookup_ne_of_cons {k : Nat} {b : Byte} {rest m : Memory} (h : Memory.wf ((k, b) :: rest) = true)
    (hm : ∀ c ∈ m, k < c.1) : Memory.lookup k ((k, b) :: rest) ≠ Memory.lookup k m := by
  obtain ⟨-, hb, -, -⟩ := (Memory.wf_cons k b rest).1 h
  rw [Memory.lookup_of_lt m hm]
  simpa [Memory.lookup] using hb

theorem Memory.lt_of_cons_lt {k j : Nat} {b : Byte} {rest : Memory} (h : Memory.wf ((j, b) :: rest) = true)
    (hk : k < j) : ∀ c ∈ (j, b) :: rest, k < c.1 := by
  obtain ⟨-, -, hlt, -⟩ := (Memory.wf_cons j b rest).1 h
  intro c hc
  rcases List.mem_cons.1 hc with rfl | hc
  · exact hk
  · exact Nat.lt_trans hk (hlt c hc)

/-- By induction on the lists: their first cells stand at the lowest address that is listed at all, so at the same one,
with the same byte; below and at that address the rests read as unlisted, and above it as the memories do. -/
theorem Memory.eq_of_lookup_eq {m n : Memory} (hm : m.wf = true) (hn : n.wf = true)
    (h : ∀ a < 4096, m.lookup a = n.lookup a) : m = n := by
  induction m generalizing n with
  | nil =>
    cases n with
    | nil => rfl
    | cons d n =>
      obtain ⟨hj, -, -, -⟩ := (Memory.wf_cons d.1 d.2 n).1 hn
      exact absurd (h d.1 hj).symm (Memory.lookup_ne_of_cons hn (by simp))
  | cons c m ih =>
    obtain ⟨k, b⟩ := c
    obtain ⟨hk, -, hltm, hwm⟩ := (Memory.wf_cons k b m).1 hm
    cases n with
    | nil => exact absurd (h k hk) (Memory.lookup_ne_of_cons hm (by simp))
    | cons d n =>
      obtain ⟨j, d⟩ := d
      obtain ⟨hj, -, hltn, hwn⟩ := (Memory.wf_cons j d n).1 hn
      rcases Nat.lt_trichotomy k j with hkj | rfl | hjk
      · exact absurd (h k hk) (Memory.lookup_ne_of_cons hm (Memory.lt_of_cons_lt hn hkj))
      · have hbd : b = d := by simpa [Memory.lookup] using h k hk
        have hrest : m = n := ih hwm hwn fun a ha => by
          by_cases hka : k = a
          · subst hka
            rw [Memory.lookup_of_lt m hltm, Memory.lookup_of_lt n hltn]
          · simpa [Memory.lookup, hka] using h a ha
        rw [hbd, hrest]
      · exact absurd (h j hj).symm (Memory.lookup_ne_of_cons hn (Memory.lt_of_cons_lt hm hjk))

/-- Settles O38, by induction on the two lists (`Memory.eq_of_lookup_eq`). -/
theorem equalMemoriesAreEqualData : Obligations.EqualMemoriesAreEqualData := by
  intro m k hm hk h
  refine Memory.eq_of_lookup_eq hm hk fun a ha => ?_
  simpa [Memory.read, Nat.mod_eq_of_lt ha] using h (BitVec.ofNat 12 a)

/-! ## Reset -/

theorem dataAddr_zero_toNat (a : Addr) : dataAddr 0 a.toNat = a := by simp [dataAddr]

/-- Memory after reset: the FONT's bytes at addresses 0 to 79 and 0 above (70 R232). -/
theorem resetWith_read (p : Params) (a : Addr) : (resetWith p).mem.read a = p.font[a.toNat]?.getD 0 := by
  simp only [resetWith, State.setMem_mem]
  by_cases ha : a.toNat < 80
  · have hr := storeBytes_read_inside 0 p.font.toList 0 [] rfl (by simp) a.toNat (by simpa using ha)
    rw [Nat.zero_add, dataAddr_zero_toNat] at hr
    rw [hr]
    simp [ha]
  · have hout : ∀ j < p.font.toList.length, a ≠ dataAddr 0 (0 + j) := by
      rintro j hj rfl
      have hlen : p.font.toList.length = 80 := by simp
      have haddr : (dataAddr 0 (0 + j)).toNat = j % 4096 := by simp [dataAddr]
      omega
    rw [storeBytes_read_outside 0 _ 0 [] a hout]
    simp [Memory.read, Memory.lookup, unlistedByte, ha]

/-- Settles O47: memory is `resetWith_read`, and every other piece of state is the one `State.reset` writes out. -/
theorem resetLeavesTheSpecsValues : Obligations.ResetLeavesTheSpecsValues := by
  intro p
  refine ⟨resetWith_read p, ?_, rfl, rfl, ?_, rfl, rfl, rfl, ?_, ?_, rfl, rfl⟩
  · intro x; simp [resetWith, State.reset, State.getV]
  · intro j; simp [resetWith, State.reset]
  · intro k; simp [resetWith, State.reset]
  · intro c; exact Screen.lit_blank _ _

end Sys2Proof.Machine
end

section
/-! What influences what: the sound timer (spec 10 R31), the halted state (60 R194, R195) and the keypad (60 R203). -/

namespace Sys2Proof.Machine

/-! ## The sound timer -/

/-- With another sound timer a handler does the same, but for the sound timer. -/
theorem exec_setSt {i : Instr} {s t : State} (b : Byte) (h : exec i s = .next t) :
    ∃ c, exec i (s.setTimers s.dt b) = .next (t.setTimers t.dt c) := by
  cases i with
  | ret =>
    rcases Nat.eq_zero_or_pos s.sp.val with hsp | hsp
    · rw [exec_ret_of_empty hsp] at h
      cases h
      exact ⟨b, exec_ret_of_empty (s := s.setTimers s.dt b) hsp⟩
    · rw [exec_ret_of_pos hsp] at h
      cases h
      exact ⟨b, exec_ret_of_pos (s := s.setTimers s.dt b) hsp⟩
  | call nnn =>
    rcases sp_lt_or_full s with hsp | hsp
    · rw [exec_call_of_lt nnn hsp] at h
      cases h
      exact ⟨b, exec_call_of_lt (s := s.setTimers s.dt b) nnn hsp⟩
    · rw [exec_call_of_full nnn hsp] at h
      cases h
      exact ⟨b, exec_call_of_full (s := s.setTimers s.dt b) nnn hsp⟩
  | ldVxK x =>
    cases hk : firstKey s.key with
    | some k =>
      rw [exec_ldVxK_of_some x hk] at h
      cases h
      exact ⟨b, exec_ldVxK_of_some (s := s.setTimers s.dt b) x hk⟩
    | none =>
      rw [exec_ldVxK_of_none x hk] at h
      cases h
      exact ⟨b, exec_ldVxK_of_none (s := s.setTimers s.dt b) x hk⟩
  | ldStVx x =>
    cases h
    exact ⟨s.getV x, rfl⟩
  | _ =>
    cases h
    exact ⟨b, rfl⟩

/-- The timer phase counts the sound timer by itself. -/
theorem endStep_setSt (s : State) (b : Byte) :
    ∃ c, endStep (s.setTimers s.dt b) = (endStep s).setTimers (endStep s).dt c := by
  by_cases hc : s.halted = false ∧ s.params.timerSource = .perStep
  · rw [endStep_of_counts hc, endStep_of_counts (s := s.setTimers s.dt b) hc]
    exact ⟨countDown b, rfl⟩
  · rw [endStep_of_not_counts hc, endStep_of_not_counts (s := s.setTimers s.dt b) hc]
    exact ⟨b, rfl⟩

/-- Settles O44, by the cases of a step: no check before the handler reads ST, and the handler and the timer phase write
ST alone from it. -/
theorem noStepReadsTheSoundTimer : Obligations.NoStepReadsTheSoundTimer := by
  intro s t b h
  obtain ⟨hh, rfl⟩ | ⟨hh, hf, rfl⟩ | ⟨w, i, u, hh, hf, hd, hu, rfl⟩ | ⟨w, e, hh, hf, hd, rfl⟩ := step_cases h
  · exact ⟨b, step_of_halted (s := s.setTimers s.dt b) hh⟩
  · exact ⟨b, step_of_no_fetch (s := s.setTimers s.dt b) hh hf⟩
  · obtain ⟨c, hc⟩ := exec_setSt b hu
    obtain ⟨d, hd'⟩ := endStep_setSt u c
    refine ⟨d, ?_⟩
    rw [step_of_instr (s := s.setTimers s.dt b) hh hf hd, ← hd', finishStep_eq_next]
    exact ⟨_, hc, rfl⟩
  · obtain ⟨c, hc⟩ := endStep_setSt (unknownWord (beginStep s)) b
    refine ⟨c, ?_⟩
    rw [step_of_unknown (s := s.setTimers s.dt b) hh hf hd, ← hc]
    rfl

/-! ## The halted state -/

/-- An event that is no reset changes only the keypad and the report of a halted block (60 R194). -/
theorem applyEvent_of_halted {s : State} {e : Event} (hh : s.halted = true) (he : e.isReset = false) :
    ∃ key r, applyEvent e s = (s.setKeys key).setReport r := by
  cases e with
  | step =>
    refine ⟨s.key, .empty, ?_⟩
    rw [applyEvent, step_of_halted hh]
    rfl
  | host a =>
    cases a with
    | reset => cases he
    | boot program => cases he
    | keys key => exact ⟨key, s.report, rfl⟩
    | tick =>
      obtain ht | ⟨hr, -⟩ := tick_cases s
      · exact ⟨s.key, s.report, ht⟩
      · rw [hh] at hr; cases hr

theorem runEvents_of_halted {s : State} {es : List Event} (hh : s.halted = true) (hes : ∀ e ∈ es, e.isReset = false) :
    ∃ key r, runEvents es s = (s.setKeys key).setReport r := by
  induction es generalizing s with
  | nil => exact ⟨s.key, s.report, rfl⟩
  | cons e es ih =>
    obtain ⟨key, r, he⟩ := applyEvent_of_halted hh (hes e (by simp))
    obtain ⟨key', r', hrun⟩ := ih (s := (s.setKeys key).setReport r) hh fun e' h' => hes e' (by simp [h'])
    exact ⟨key', r', by rw [runEvents, he, hrun]; rfl⟩

/-- Settles O45, by induction on the events for the first half; reset and boot write the status of `State.reset`. -/
theorem onlyResetLeavesTheHaltedState : Obligations.OnlyResetLeavesTheHaltedState := by
  refine ⟨fun s es hh hes => ?_, fun s program => ⟨rfl, rfl⟩⟩
  obtain ⟨key, r, hrun⟩ := runEvents_of_halted hh hes
  rw [hrun]
  rfl

/-! ## The keypad -/

theorem step_key {s t : State} (h : step s = .next t) : t.key = s.key := (noStepWritesKeypadOrParameters s t h).1

theorem tick_key (s : State) : (tick s).key = s.key := by
  obtain ht | ⟨-, ht⟩ := tick_cases s
  · rw [ht]
  · rw [ht]; rfl

theorem applyEvent_step_key (s : State) : (applyEvent .step s).key = s.key := by
  simp only [applyEvent]
  split
  · exact step_key ‹_›
  · rfl
  · rfl

theorem runEvents_key {s : State} {es : List Event} (hes : ∀ e ∈ es, e = .step ∨ e = .host .tick) :
    (runEvents es s).key = s.key := by
  induction es generalizing s with
  | nil => rfl
  | cons e es ih =>
    rw [runEvents, ih fun e' h' => hes e' (by simp [h'])]
    obtain rfl | rfl := hes e (by simp)
    · exact applyEvent_step_key s
    · exact tick_key s

theorem decode_skp (x : Reg) : decode (encodeXKk 0xE x 0x9E) = .ok (.skp x) := by
  simp [decode, decodeFamilyE]

/-- A step of SKP Vx (44 R171). -/
theorem step_skp {s : State} {x : Reg} (hh : s.halted = false) (hf : s.fetch = some (encodeXKk 0xE x 0x9E)) :
    step s = .next (endStep ((beginStep s).skipIf s.key[keyIndex (s.getV x)])) := by
  rw [step_of_instr hh hf (decode_skp x)]
  rfl

/-- Settles O58: KEYS is one update of one field, runs of steps and ticks keep it, and `step_skp` reads it. -/
theorem hostKeysAreWhatStepsRead : Obligations.HostKeysAreWhatStepsRead := by
  intro key s
  refine ⟨rfl, rfl, fun _ => rfl, fun p => by cases p <;> simp [Part.Same, act], ?_, ?_⟩
  · exact fun es hes => runEvents_key hes
  · intro x hh hf
    refine ⟨_, step_skp (s := act (.keys key) s) hh hf, ?_⟩
    have hpc : s.pc + 4 = s.pc + 2 + 2 := (BitVec.add_assoc s.pc 2 2).symm
    simp only [endStep_pc, skipIf_pc, key_pressed_iff, hpc]
    rfl

end Sys2Proof.Machine
end

section
/-! Memory and the fetch (spec 20 R50 to R63): what a fetch reads or latches, the parts of a step around the handler of
the fetched instruction, the words that stores place where the next step fetches, and the two diagnostics of a step. -/

namespace Sys2Proof.Machine

/-! ## The fetch (20 R53, R57) -/

/-- The byte at the lower address is the high one (20 R53). -/
theorem wordOfBytes_toNat (hi lo : Byte) : (wordOfBytes hi lo).toNat = hi.toNat * 256 + lo.toNat := by
  have hshift : (hi.setWidth 16 <<< 8).toNat = hi.toNat <<< 8 := by
    simp only [BitVec.toNat_shiftLeft, BitVec.toNat_setWidth, Nat.shiftLeft_eq]; omega
  rw [wordOfBytes, BitVec.toNat_or, hshift, BitVec.toNat_setWidth_of_le (by decide),
    ← Nat.shiftLeft_add_eq_or_of_lt lo.isLt, Nat.shiftLeft_eq]

theorem fetch_of_pc_le {s : State} (hpc : s.pc.toNat ≤ 0xFFE) :
    s.fetch = some (wordOfBytes (s.mem.read (dataAddr s.pc 0)) (s.mem.read (dataAddr s.pc 1))) :=
  (fetch_eq_some s _).2 ⟨hpc, rfl⟩

/-- The two ways a step latches a fault, `fetchFault_eq` and `takeHandlerFault_beginStep`, end in this state. -/
theorem latchesFault_setFaultStatus (s : State) (c : FaultCode) (w : Word) :
    LatchesFault c w s ((s.setFaultStatus true c s.pc w).setReport ⟨c, false, false⟩) :=
  ⟨rfl, rfl, rfl, rfl, rfl, (onlyWrites_setFaultStatus s _ _ _ _).trans (onlyWrites_setReport _ _)⟩

/-- Settles O7: the fetched word is `wordOfBytes` of the two bytes, and a step with none to fetch latches the fault. -/
theorem fetchIsBigEndianOrFaults : Obligations.FetchIsBigEndianOrFaults := by
  refine ⟨fun s hpc => ⟨_, fetch_of_pc_le hpc, wordOfBytes_toNat _ _⟩, fun s hh hpc => ?_⟩
  have hf : s.fetch = none := (fetch_eq_none s).2 hpc
  exact ⟨hf, _, step_of_no_fetch hh hf, latchesFault_setFaultStatus s _ _⟩

/-! ## The parts of a step around a handler (30 R80, R89) -/

theorem onlyWrites_beginStep (s : State) : OnlyWrites [] [.pc, .report] s (beginStep s) :=
  ((onlyWrites_setReport s _).trans (onlyWrites_setPc _ _)).mono (by simp) (by simp)

theorem onlyWrites_setTimers (s : State) (d e : Byte) : OnlyWrites [] [.dt, .st] s (s.setTimers d e) :=
  onlyWrites_parts

theorem onlyWrites_endStep (s : State) : OnlyWrites [] [.dt, .st] s (endStep s) := by
  rw [endStep_eq]
  split
  · exact onlyWrites_setTimers s _ _
  · exact onlyWrites_parts

theorem timersAfter_endStep {s : State} (hh : s.halted = false) : TimersAfter s.dt s.st (endStep s) := by
  rw [TimersAfter, endStep_params]
  split
  case h_1 hp =>
    rw [endStep_of_counts ⟨hh, hp⟩]
    exact ⟨countDown_toNat s.dt, countDown_toNat s.st⟩
  case h_2 hp =>
    rw [endStep_of_not_counts (by simp [hp])]
    exact ⟨rfl, rfl⟩

theorem decode_of_decodeBytes {hi lo : Byte} {i : Instr} {rest : List Byte}
    (h : decodeBytes [hi, lo] = .ok (i, rest)) : decode (wordOfBytes hi lo) = .ok i := by
  rw [decodeBytes] at h
  split at h
  · cases h; assumption
  · cases h

/-- Settles O6: the word of the two bytes is the one fetched, so the step is the handler's answer and its end. -/
theorem stepRunsTheDecodedInstruction : Obligations.StepRunsTheDecodedInstruction := by
  intro s i hh hpc hd _
  have hstep : step s = finishStep (exec i (beginStep s)) :=
    step_of_instr hh (fetch_of_pc_le hpc) (decode_of_decodeBytes hd)
  refine ⟨rfl, rfl, onlyWrites_beginStep s, hstep, fun t ht => ⟨endStep t, ?_, onlyWrites_endStep t, ?_, ?_⟩⟩
  · rw [hstep, ht, finishStep]
  · exact fun h => endStep_of_halted h
  · exact fun h => timersAfter_endStep h

/-! ## Stored registers (43 R155, R156) -/

/-- Each of V0 to Vx stands at its address after the store. -/
theorem storeRegs_read {s : State} (hm : s.mem.wf = true) {x r : Reg} (hr : r ≤ x) :
    (storeBytes s.index 0 (s.v.toList.take (x.val + 1)) s.mem).read (dataAddr s.index r.val) = s.getV r := by
  have hlt : r.val < (s.v.toList.take (x.val + 1)).length := by
    rw [List.length_take, Vector.length_toList]; exact Nat.lt_min.2 ⟨Nat.lt_succ_of_le hr, r.isLt⟩
  have h := storeBytes_read_inside s.index _ 0 s.mem hm (by simp; omega) r.val hlt
  rw [Nat.zero_add] at h
  rw [h]
  simp [State.getV]

/-- Settles O36: the load reads at the addresses of the store, since neither changes I. -/
theorem loadAfterStoreRestoresRegisters : Obligations.LoadAfterStoreRestoresRegisters := by
  refine fun x s v hm => ⟨_, rfl, _, rfl, fun r hr => ?_⟩
  calc (loadRegs (storeBytes s.index 0 (s.v.toList.take (x.val + 1)) s.mem) s.index x v)[r]
      = (storeBytes s.index 0 (s.v.toList.take (x.val + 1)) s.mem).read (dataAddr s.index r.val) := by
        rw [loadRegs_getElem, if_pos hr]
    _ = s.getV r := storeRegs_read hm hr

/-- Settles O37: the two stored bytes are the ones at pc and pc + 1, and the store leaves pc alone. -/
theorem storedBytesAreFetched : Obligations.StoredBytesAreFetched := by
  intro x r q s hm hpc hrq hq hr0 hq1
  have hr : r ≤ x := by simp only [Fin.le_def] at hq ⊢; omega
  have hhi := storeRegs_read hm hr
  have hlo := storeRegs_read hm hq
  rw [hr0] at hhi
  rw [hq1] at hlo
  refine ⟨_, rfl, (fetch_eq_some _ _).2 ⟨hpc, ?_⟩⟩
  exact congrArg₂ wordOfBytes hhi hlo

/-! ## The word the host places (log entry 17) -/

theorem readyToFetch_of_ready {s : State} (hh : s.halted = false) (hpc : s.pc.toNat ≤ 0xFFE) : s.readyToFetch = s := by
  simp [State.readyToFetch, hh, Nat.not_lt.2 hpc]

/-- Whatever the state, it is made one that fetches, with its memory as it was. -/
theorem readyToFetch_spec (s : State) :
    s.readyToFetch.halted = false ∧ s.readyToFetch.pc.toNat ≤ 0xFFE ∧ s.readyToFetch.mem = s.mem := by
  rw [State.readyToFetch]
  split
  case isTrue => exact ⟨rfl, by simp, rfl⟩
  case isFalse h =>
    simp only [Bool.or_eq_true, decide_eq_true_eq, not_or, Bool.not_eq_true, Nat.not_lt] at h
    obtain ⟨hh, hpc⟩ := h
    exact ⟨hh, hpc, rfl⟩

theorem placeWord_fetch {s : State} (w : Word) (hm : s.mem.wf = true) : (s.placeWord w).fetch = some w := by
  obtain ⟨-, hpc, hmem⟩ := readyToFetch_spec s
  have hr := storeBytes_read_inside s.readyToFetch.pc (wordBytes w) 0 s.readyToFetch.mem (by rwa [hmem])
    (by simp [wordBytes])
  have hhi := hr 0 (by simp [wordBytes])
  have hlo := hr 1 (by simp [wordBytes])
  refine (fetch_eq_some _ _).2 ⟨hpc, ?_⟩
  exact (congrArg₂ wordOfBytes hhi hlo).trans (wordOfBytes_bytes w)

theorem placeWord_of_ready {s : State} (w : Word) (hh : s.halted = false) (hpc : s.pc.toNat ≤ 0xFFE) :
    s.placeWord w = s.setMem (storeBytes s.pc 0 (wordBytes w) s.mem) := by
  rw [State.placeWord, readyToFetch_of_ready hh hpc]

theorem withFetchWord_eq_placeWord (s : State) {w : Nat} (hw : w < 65536) :
    s.withFetchWord 16 w = s.placeWord (BitVec.ofNat 16 w) := by
  have hmod : w % 2 ^ 16 = w := Nat.mod_eq_of_lt hw
  rw [State.withFetchWord, tableWord, hmod]

/-- Settles O53: the word's two bytes are stored at the pc of a state that fetches, which a running block with its pc in
range already is. -/
theorem placedWordIsFetched : Obligations.PlacedWordIsFetched := by
  intro s w hm hw
  obtain ⟨hrun, -, -⟩ := readyToFetch_spec s
  rw [withFetchWord_eq_placeWord s hw]
  refine ⟨hrun, placeWord_fetch _ hm, fun hh hpc => ?_⟩
  rw [placeWord_of_ready _ hh hpc]
  refine ⟨onlyWrites_setMem s _, fun a h0 h1 => storeBytes_read_outside _ _ _ _ _ fun j hj => ?_⟩
  match j, hj with
  | 0, _ => exact h0
  | 1, _ => exact h1

/-! ## The diagnostics of a step (60 R196) -/

theorem wraps_iff_exists (base : Word) (count : Nat) :
    wraps base count = true ↔ ∃ k, k < count ∧ base.toNat + k > 0xFFF := by simp [wraps]

@[simp] theorem wraps_zero (base : Word) : wraps base 0 = false := rfl

@[simp] theorem takeHandlerFault_report (s : State) (c : FaultCode) (i : Instr) :
    (s.takeHandlerFault c i).report = { s.report with fault := c } := rfl

/-- No handler reports UNKNOWN_INSTRUCTION, and ADDRESS_WRAPPED only one that makes data accesses: DRW, LD B, LD [I] and
LD Vx, [I] note it. RET and CALL may report a fault, and no other instruction has the report in its frame. -/
theorem exec_diagnostics {i : Instr} {s t : State} (h : exec i s = .next t) :
    t.report.unknownInstruction = s.report.unknownInstruction ∧
      t.report.addressWrapped = (s.report.addressWrapped || wraps s.index (dataAccesses i)) := by
  cases i with
  | drw | ldBVx | ldMiVx | ldVxMi => cases h; exact ⟨rfl, rfl⟩
  | ret =>
    rcases Nat.eq_zero_or_pos s.sp.val with hsp | hsp
    · rw [exec_ret_of_empty hsp] at h
      cases h
      simp [dataAccesses]
    · rw [exec_ret_of_pos hsp] at h
      cases h
      simp [dataAccesses]
  | call nnn =>
    rcases sp_lt_or_full s with hsp | hsp
    · rw [exec_call_of_lt nnn hsp] at h
      cases h
      simp [dataAccesses]
    · rw [exec_call_of_full nnn hsp] at h
      cases h
      simp [dataAccesses]
  | _ =>
    obtain ⟨u, hu, -, hparts, -, -⟩ := exec_onlyWrites _ s
    cases h.symm.trans hu
    have hreport : t.report = s.report := hparts .report (by simp [writtenParts])
    simp [hreport, dataAccesses]

@[simp] theorem endStep_report (s : State) : (endStep s).report = s.report := by simp [endStep_fields]

/-- Settles O12, by the cases of a step: with no word fetched, and with an unknown word, the report is written out; with an
instruction it is the handler's, over the empty report. -/
theorem diagnosticsAreExact : Obligations.DiagnosticsAreExact := by
  intro s t hh h
  obtain ⟨hh', -⟩ | ⟨-, hf, rfl⟩ | ⟨w, i, u, -, hf, hd, hu, rfl⟩ | ⟨w, e, -, hf, hd, rfl⟩ := step_cases h
  · simp [hh] at hh'
  · simp [fetchFault_eq, hf]
  · obtain ⟨hunknown, hwrapped⟩ := exec_diagnostics hu
    have hbegin : (beginStep s).report = ⟨.none, false, false⟩ := rfl
    have hindex : (beginStep s).index = s.index := rfl
    rw [hbegin] at hunknown hwrapped
    rw [hindex, Bool.false_or] at hwrapped
    simp [hunknown, hwrapped, hf, hd, wraps_iff_exists]
  · have hreport : (unknownWord (beginStep s)).report = ⟨.none, true, false⟩ := rfl
    simp [hreport, hf, hd]

end Sys2Proof.Machine
end

section
/-! The decoder and the encoder (spec 30 R72 to R87): they invert each other, the rejected words are R82's, and decoding is
the selection of a row of the table. -/

namespace Sys2Proof

/-! ## Decode after encode -/

/-- By the formats: the field lemmas read back the family, the second-level selector and the operands. -/
theorem decode_encode {i : Instr} (h : i.wf = true) : decode (encode i) = .ok i := by
  cases i with
  | cls | ret => rfl
  | jpNnn | call | ldINnn | jpV0Nnn | seVxKk | sneVxKk | ldVxKk | addVxKk | rnd | seVxVy | sneVxVy =>
    simp [encode, decode]
  | ldVxVy | orVxVy | andVxVy | xorVxVy | addVxVy | subVxVy | shrVxVy | subnVxVy | shlVxVy =>
    simp [encode, decode, decodeFamily8]
  | drw x y n =>
    have hn : n ≤ 15 := by simpa [Instr.wf] using h
    have hmod : n % 16 = n := Nat.mod_eq_of_lt (Nat.lt_succ_of_le hn)
    simp [encode, decode, hmod]
  | skp | sknp => simp [encode, decode, decodeFamilyE]
  | ldVxDt | ldVxK | ldDtVx | ldStVx | addIVx | ldFVx | ldBVx | ldMiVx | ldVxMi =>
    simp [encode, decode, decodeFamilyF]

theorem decodeBytes_wordBytes (w : Word) (rest : List Byte) :
    decodeBytes (wordBytes w ++ rest) = (decode w).map fun i => (i, rest) := by
  simp only [wordBytes, List.cons_append, List.nil_append, decodeBytes, wordOfBytes_bytes]
  cases decode w <;> rfl

/-- Settles O1: `decode_encode`, and an instruction's bytes are read as its word. -/
theorem decodeInvertsEncode : Obligations.DecodeInvertsEncode := by
  intro i rest h
  refine ⟨decode_encode h, ?_⟩
  rw [encodeBytes, decodeBytes_wordBytes, decode_encode h]
  rfl

/-! ## Encode after decode -/

theorem decode_encodeXyN_drw (x y : Reg) (n : BitVec 4) : decode (encodeXyN 0xD x y n) = .ok (.drw x y n.toNat) := by
  simp [decode]

/-- DRW's row count comes from four bits of the word. -/
theorem wf_of_decode {w : Word} {i : Instr} (h : decode w = .ok i) : i.wf = true := by
  cases i with
  | drw x y n =>
    have hw : encodeXyN 0xD x y (BitVec.ofNat 4 n) = w := encode_of_decode h
    rw [← hw, decode_encodeXyN_drw] at h
    have hn : (BitVec.ofNat 4 n).toNat = n := by simpa using h
    simp only [Instr.wf, decide_eq_true_eq]
    omega
  | _ => rfl

/-- Settles O2, by `wf_of_decode` and `encode_of_decode`. -/
theorem encodeInvertsDecode : Obligations.EncodeInvertsDecode := fun _ _ h => ⟨wf_of_decode h, encode_of_decode h⟩

/-! ## The rejected words (30 R82 to R87) -/

theorem ite_ok_eq_error {c : Prop} [Decidable c] {i : Instr} {r e : Reject} :
    (if c then (.ok i : Except Reject Instr) else .error r) = .error e ↔ e = r ∧ ¬c := by
  split <;> simp [*, eq_comm]

theorem decodeFamily0_eq_error (w : Word) (e : Reject) :
    decodeFamily0 w = .error e ↔ e = .family0 ∧ w ≠ 0x00E0 ∧ w ≠ 0x00EE := by
  rw [decodeFamily0]
  split
  case isTrue hw => simp [hw]
  case isFalse hw => rw [ite_ok_eq_error, and_iff_right hw]

theorem decodeFamily8_eq_error (w : Word) (e : Reject) :
    decodeFamily8 w = .error e ↔ e = .family8 ∧ fieldN w ∈ [0x8, 0x9, 0xA, 0xB, 0xC, 0xD, 0xF] := by
  obtain hn | hn | hn | hn | hn | hn | hn | hn | hn | hn | hn | hn | hn | hn | hn | hn := nibble_cases (fieldN w) <;>
    simp [decodeFamily8, hn, eq_comm]

theorem decodeFamilyE_eq_error (w : Word) (e : Reject) :
    decodeFamilyE w = .error e ↔ e = .familyE ∧ fieldKk w ≠ 0x9E ∧ fieldKk w ≠ 0xA1 := by
  rw [decodeFamilyE]
  split <;> simp_all [eq_comm]

theorem decodeFamilyF_eq_error (w : Word) (e : Reject) :
    decodeFamilyF w = .error e ↔
      e = .familyF ∧ fieldKk w ∉ [0x07, 0x0A, 0x15, 0x18, 0x1E, 0x29, 0x33, 0x55, 0x65] := by
  rw [decodeFamilyF]
  split <;> simp_all [eq_comm]

/-- Settles O4, by the family of the word: the arms of `decode` stand in the families' order, and those of 0, 5, 8, 9, E
and F can reject. -/
theorem unknownWordsAreTheSpecsTable : Obligations.UnknownWordsAreTheSpecsTable := by
  intro w e
  unfold decode
  split
  case h_1 hf => simp [hf, decodeFamily0_eq_error]
  case h_6 hf | h_10 hf => rw [ite_ok_eq_error]; simp [hf]
  case h_9 hf => simp [hf, decodeFamily8_eq_error]
  case h_15 hf => simp [hf, decodeFamilyE_eq_error]
  case h_16 =>
    have hf : fieldFamily w = 0xF := by have := nibble_cases (fieldFamily w); simp_all
    simp [hf, decodeFamilyF_eq_error]
  case h_2 hf | h_3 hf | h_4 hf | h_5 hf | h_7 hf | h_8 hf | h_11 hf | h_12 hf | h_13 hf | h_14 hf => simp [hf]

/-! ## Rows (30 R76, R81) -/

theorem selects_iff (r : Row) (w : Word) : r.selects w = true ↔ w &&& r.mask = r.bits := decide_eq_true_iff

theorem row_mem_opcodeRows (i : Instr) : i.row ∈ opcodeRows := by
  cases i <;> simp [opcodeRows, Instr.row]

open Laws.InRow in
/-- The encoding of an instruction selects its row, by the formats. -/
theorem selects_encode (i : Instr) : i.row.selects (encode i) = true := by
  rw [selects_iff]
  cases i with
  | cls | ret => rfl
  | jpNnn | call | ldINnn | jpV0Nnn => exact encodeNnn_row _ _
  | seVxKk | sneVxKk | ldVxKk | addVxKk | rnd => exact encodeXKk_row _ _ _
  | seVxVy | sneVxVy | ldVxVy | orVxVy | andVxVy | xorVxVy | addVxVy | subVxVy | shrVxVy | subnVxVy | shlVxVy =>
    exact encodeXy_row _ _ _ _
  | drw => exact encodeXyN_row _ _ _ _
  | skp | sknp | ldVxDt | ldVxK | ldDtVx | ldStVx | addIVx | ldFVx | ldBVx | ldMiVx | ldVxMi =>
    exact encodeX_row _ _ _

theorem selects_of_decode {w : Word} {i : Instr} (h : decode w = .ok i) : i.row.selects w = true := by
  simpa only [encode_of_decode h] using selects_encode i

/-- A bit that two rows fix to different values tells the words of one from the words of the other. -/
theorem not_selects_of_disjoint {r q : Row} {w : Word} (hd : r.disjoint q = true) (hr : r.selects w = true) :
    ¬q.selects w = true := by
  rw [selects_iff] at hr ⊢
  intro hq
  rw [Row.disjoint, decide_eq_true_eq, ← hr, ← hq] at hd
  apply hd
  apply BitVec.eq_of_getLsbD_eq; intro i _
  simp only [BitVec.getLsbD_and, BitVec.getLsbD_xor]
  cases w.getLsbD i <;> cases r.mask.getLsbD i <;> simp

theorem opcodeRows_disjoint : ∀ r ∈ opcodeRows, ∀ q ∈ opcodeRows, r ≠ q → r.disjoint q = true := by decide

theorem eq_of_selects {r q : Row} {w : Word} (hr : r ∈ opcodeRows) (hq : q ∈ opcodeRows) (hrw : r.selects w = true)
    (hqw : q.selects w = true) : r = q := by
  by_contra hne
  exact not_selects_of_disjoint (opcodeRows_disjoint r hr q hq hne) hrw hqw

/-! ### What a row fixes, family by family -/

theorem fieldFamily_and (w m : Word) : fieldFamily (w &&& m) = fieldFamily w &&& fieldFamily m :=
  BitVec.extractLsb'_and

theorem fieldN_and (w m : Word) : fieldN (w &&& m) = fieldN w &&& fieldN m := BitVec.extractLsb'_and

theorem fieldKk_and (w m : Word) : fieldKk (w &&& m) = fieldKk w &&& fieldKk m := BitVec.extractLsb'_and

/-- A row's second-level selector, in the families that have one: no row fixes a value that R82 rejects. -/
theorem opcodeRows_fix : ∀ r ∈ opcodeRows, fieldFamily r.mask = 0xF ∧
    (fieldFamily r.bits = 0x0 → r.mask = 0xFFFF ∧ (r.bits = 0x00E0 ∨ r.bits = 0x00EE)) ∧
    (fieldFamily r.bits = 0x5 ∨ fieldFamily r.bits = 0x9 → fieldN r.mask = 0xF ∧ fieldN r.bits = 0) ∧
    (fieldFamily r.bits = 0x8 → fieldN r.mask = 0xF ∧ fieldN r.bits ∉ [0x8, 0x9, 0xA, 0xB, 0xC, 0xD, 0xF]) ∧
    (fieldFamily r.bits = 0xE → fieldKk r.mask = 0xFF ∧ (fieldKk r.bits = 0x9E ∨ fieldKk r.bits = 0xA1)) ∧
    (fieldFamily r.bits = 0xF → fieldKk r.mask = 0xFF ∧
      fieldKk r.bits ∈ [0x07, 0x0A, 0x15, 0x18, 0x1E, 0x29, 0x33, 0x55, 0x65]) := by decide

/-- A word of R82's table selects no row. -/
theorem not_selects_of_reject {r : Row} {w : Word} {e : Reject} (hr : r ∈ opcodeRows) (h : decode w = .error e) :
    ¬r.selects w = true := by
  rw [selects_iff]
  intro hs
  obtain ⟨hmask, h0, h59, h8, hE, hF⟩ := opcodeRows_fix r hr
  have hfamily : fieldFamily w = fieldFamily r.bits := by
    rw [← hs, fieldFamily_and, hmask]; exact BitVec.and_allOnes.symm
  have hN (hm : fieldN r.mask = 0xF) : fieldN w = fieldN r.bits := by
    rw [← hs, fieldN_and, hm]; exact BitVec.and_allOnes.symm
  have hKk (hm : fieldKk r.mask = 0xFF) : fieldKk w = fieldKk r.bits := by
    rw [← hs, fieldKk_and, hm]; exact BitVec.and_allOnes.symm
  obtain ⟨-, hf, hne, hne'⟩ | ⟨-, hf, hn⟩ | ⟨-, hf, hn⟩ | ⟨-, hf, hn⟩ | ⟨-, hf, hk, hk'⟩ | ⟨-, hf, hk⟩ :=
    (unknownWordsAreTheSpecsTable w e).1 h
  · obtain ⟨hm, hbits⟩ := h0 (hfamily ▸ hf)
    have hw : w = r.bits := by rw [← hs, hm]; exact BitVec.and_allOnes.symm
    rw [← hw] at hbits
    exact hbits.elim hne hne'
  · obtain ⟨hm, hbits⟩ := h59 (.inl (hfamily ▸ hf))
    exact hn ((hN hm).trans hbits)
  · obtain ⟨hm, hbits⟩ := h8 (hfamily ▸ hf)
    exact hbits (hN hm ▸ hn)
  · obtain ⟨hm, hbits⟩ := h59 (.inr (hfamily ▸ hf))
    exact hn ((hN hm).trans hbits)
  · obtain ⟨hm, hbits⟩ := hE (hfamily ▸ hf)
    rw [← hKk hm] at hbits
    exact hbits.elim hk hk'
  · obtain ⟨hm, hbits⟩ := hF (hfamily ▸ hf)
    exact hk (hKk hm ▸ hbits)

theorem selects_iff_decodes {r : Row} (hr : r ∈ opcodeRows) (w : Word) :
    r.selects w = true ↔ ∃ i, decode w = .ok i ∧ i.row = r := by
  constructor
  · intro hs
    cases hd : decode w with
    | error e => exact absurd hs (not_selects_of_reject hr hd)
    | ok i => exact ⟨i, rfl, eq_of_selects (row_mem_opcodeRows i) hr (selects_of_decode hd) hs⟩
  · rintro ⟨i, hd, rfl⟩
    exact selects_of_decode hd

theorem selects_none_iff_rejected (w : Word) :
    (∀ r ∈ opcodeRows, r.selects w = false) ↔ ∃ e, decode w = .error e := by
  constructor
  · intro hnone
    cases hd : decode w with
    | error e => exact ⟨e, rfl⟩
    | ok i => exact absurd (selects_of_decode hd) (by simp [hnone i.row (row_mem_opcodeRows i)])
  · rintro ⟨e, hd⟩ r hr
    exact Bool.eq_false_iff.2 (not_selects_of_reject hr hd)

/-- Settles O3: the rows exclude each other, an instruction's word selects its own, and a rejected word none. -/
theorem rowsSelectExactlyWhatDecodes : Obligations.RowsSelectExactlyWhatDecodes :=
  ⟨rfl, fun w _ hr => selects_iff_decodes hr w, fun _ _ _ => eq_of_selects, selects_none_iff_rejected⟩

/-- Settles O5, by running the decoder on each word. -/
theorem sampleWordsDecode : Obligations.SampleWordsDecode := by
  unfold Obligations.SampleWordsDecode
  decide

end Sys2Proof
end

section
/-! The timers along a step and along a run (spec 30 R89, 60 R211 to R213), and the step of an unknown word (30 R82). -/

namespace Sys2Proof.Machine

/-! ## A step always answers -/

/-- No handler stops the machine, and neither does a step around it (log entry 4). -/
theorem step_answers (s : State) : ∃ t, step s = .next t := by
  cases hh : s.halted with
  | true => exact ⟨_, step_of_halted hh⟩
  | false =>
    cases hf : s.fetch with
    | none => exact ⟨_, step_of_no_fetch hh hf⟩
    | some w =>
      cases hd : decode w with
      | ok i =>
        obtain ⟨u, hu, -⟩ := exec_onlyWrites i (beginStep s)
        exact ⟨_, by rw [step_of_instr hh hf hd, hu, finishStep]⟩
      | error e => exact ⟨_, step_of_unknown hh hf hd⟩

/-! ## An unknown word -/

theorem onlyWrites_unknownWord (s : State) : OnlyWrites [] [.report] s (unknownWord s) := onlyWrites_setReport s _

/-- Settles O8: the advance, the diagnostic and the timer phase, one after another, are all that the step does. -/
theorem unknownWordIsANoOpWithADiagnostic : Obligations.UnknownWordIsANoOpWithADiagnostic := by
  intro s w e hh hf hd
  refine ⟨_, step_of_unknown hh hf hd, endStep_pc _, endStep_report _, ?_, ?_⟩
  · exact timersAfter_endStep (s := unknownWord (beginStep s)) hh
  · exact (((onlyWrites_beginStep s).trans (onlyWrites_unknownWord _)).trans (onlyWrites_endStep _)).mono
      (by simp) (by simp)

/-! ## The timers after a step -/

/-- LD DT, Vx alone writes the delay timer. -/
theorem exec_dt {i : Instr} {s t : State} (h : exec i s = .next t) (hi : ∀ x, i ≠ .ldDtVx x) : t.dt = s.dt := by
  obtain ⟨u, hu, -, hparts, -, -⟩ := exec_onlyWrites i s
  cases h.symm.trans hu
  exact hparts .dt (by cases i <;> simp_all [writtenParts])

/-- LD ST, Vx alone writes the sound timer. -/
theorem exec_st {i : Instr} {s t : State} (h : exec i s = .next t) (hi : ∀ x, i ≠ .ldStVx x) : t.st = s.st := by
  obtain ⟨u, hu, -, hparts, -, -⟩ := exec_onlyWrites i s
  cases h.symm.trans hu
  exact hparts .st (by cases i <;> simp_all [writtenParts])

@[simp] theorem endStep_halted (s : State) : (endStep s).halted = s.halted := by simp [endStep_fields]

@[simp] theorem fetchFault_halted (s : State) : (fetchFault s).halted = true := rfl

/-- A step that does not fault fetches a word and counts once from the timers its handler leaves (30 R89). -/
theorem timersAfter_step {s t : State} (hh : s.halted = false) (h : step s = .next t) (ht : t.halted = false) :
    ∃ w d e, s.fetch = some w ∧ TimersAfter d e t ∧ ((∀ x, decode w ≠ .ok (.ldDtVx x)) → d = s.dt) ∧
      ((∀ x, decode w ≠ .ok (.ldStVx x)) → e = s.st) := by
  obtain ⟨hh', -⟩ | ⟨-, -, rfl⟩ | ⟨w, i, u, -, hf, hd, hu, rfl⟩ | ⟨w, e, -, hf, -, rfl⟩ := step_cases h
  · simp [hh] at hh'
  · simp at ht
  · rw [endStep_halted] at ht
    refine ⟨w, u.dt, u.st, hf, timersAfter_endStep ht, fun hn => ?_, fun hn => ?_⟩
    · show u.dt = (beginStep s).dt
      exact exec_dt hu fun x hx => hn x (hx ▸ hd)
    · show u.st = (beginStep s).st
      exact exec_st hu fun x hx => hn x (hx ▸ hd)
  · exact ⟨w, s.dt, s.st, hf, timersAfter_endStep (s := unknownWord (beginStep s)) hh, fun _ => rfl, fun _ => rfl⟩

/-- Settles O13: a word that is neither LD DT, Vx nor LD ST, Vx leaves the timers that the step counts from. -/
theorem timersCountOncePerStepOrNotAtAll : Obligations.TimersCountOncePerStepOrNotAtAll := by
  intro s t w hh hf h ht hdt hst
  obtain ⟨w', d, e, hf', htimers, hd, he⟩ := timersAfter_step hh h ht
  obtain rfl : w = w' := Option.some.inj (hf.symm.trans hf')
  rwa [hd hdt, he hst] at htimers

/-! ## The delay timer along a run -/

theorem step_params {s t : State} (h : step s = .next t) : t.params = s.params :=
  (noStepWritesKeypadOrParameters s t h).2

theorem TimersAfter.dt_of_perStep {d e : Byte} {t : State} (h : TimersAfter d e t)
    (hp : t.params.timerSource = .perStep) : t.dt.toNat = d.toNat - 1 := by
  rw [TimersAfter, hp] at h
  obtain ⟨hdt, -⟩ := h
  exact hdt

/-- One step of a PER_STEP block that neither faults nor runs LD DT, Vx. -/
theorem step_dt {s t : State} (hh : s.halted = false) (h : step s = .next t) (ht : t.halted = false)
    (hp : s.params.timerSource = .perStep) (hn : ∀ w x, s.fetch = some w → decode w ≠ .ok (.ldDtVx x)) :
    t.dt.toNat = s.dt.toNat - 1 := by
  obtain ⟨w, d, e, hf, htimers, hd, -⟩ := timersAfter_step hh h ht
  have hcount : t.dt.toNat = d.toNat - 1 := htimers.dt_of_perStep (by rw [step_params h, hp])
  rw [hcount, hd fun x => hn w x hf]

theorem applyEvent_step {s t : State} (h : step s = .next t) : applyEvent .step s = t := by rw [applyEvent, h]

/-- Settles O14, by induction on the events: a step takes one from DT, a key change nothing. -/
theorem delayTimerReachesZeroOnTime : Obligations.DelayTimerReachesZeroOnTime := by
  intro es
  induction es with
  | nil => intros; rfl
  | cons e es ih =>
    intro s hp hes hrun hn
    have hh : s.halted = false := hrun 0 (by simp)
    have hh' : (applyEvent e s).halted = false := hrun 1 (by simp)
    have hrest (hp' : (applyEvent e s).params.timerSource = .perStep) :
        (runEvents es (applyEvent e s)).dt.toNat = (applyEvent e s).dt.toNat - es.count .step :=
      ih _ hp' (fun e' he' => hes e' (by simp [he'])) (fun n hle => hrun (n + 1) (by simpa using hle))
        fun n hstep => hn (n + 1) (by simpa using hstep)
    rw [runEvents]
    obtain rfl | ⟨key, rfl⟩ := hes e (by simp)
    · obtain ⟨t, ht⟩ := step_answers s
      rw [applyEvent_step ht] at hh' hrest ⊢
      have hdt : t.dt.toNat = s.dt.toNat - 1 := step_dt hh ht hh' hp (hn 0 rfl)
      rw [hrest (by rw [step_params ht, hp]), hdt, List.count_cons_self]
      omega
    · rw [hrest hp, List.count_cons_of_ne (by simp)]
      rfl

end Sys2Proof.Machine
end

section
/-! The display (spec 40 R100, R101): drawing flips the cells under the set bits of the sprite and no other, each once,
since the places of a sprite are distinct cells; so drawing it again flips them back. -/

namespace Sys2Proof.Machine

/-! ## Cells by row and column, both axes wrapping -/

/-- Two places are the same cell of the screen. -/
def SameCell (r c row col : Nat) : Prop := r % 32 = row % 32 ∧ c % 64 = col % 64

theorem SameCell.lit_eq {r c row col : Nat} (h : SameCell r c row col) (fb : Screen) :
    fb.lit r c = fb.lit row col := by
  obtain ⟨hr, hc⟩ := h
  simp only [Screen.lit, hr, hc]

/-- Two places of a sprite that are the same cell are the same place: at most 32 rows and 64 columns (R101). -/
theorem SameCell.offsets_eq {row col i j k l : Nat} (h : SameCell (row + i) (col + j) (row + k) (col + l))
    (hi : i < 32) (hj : j < 64) (hk : k < 32) (hl : l < 64) : i = k ∧ j = l := by
  obtain ⟨hr, hc⟩ := h
  omega

/-! ## Flipping a set of cells -/

/-- Drawing from `d` to `e`: the cells of `S` are flipped, the others stay, and a collision is a lit cell of `S`. -/
structure Flips (S : Nat → Nat → Prop) (d e : Screen × Bool) : Prop where
  inside : ∀ r c, S r c → e.1.lit r c = !d.1.lit r c
  outside : ∀ r c, ¬S r c → e.1.lit r c = d.1.lit r c
  hit : e.2 = true ↔ d.2 = true ∨ ∃ r c, S r c ∧ d.1.lit r c = true

section
variable {S T : Nat → Nat → Prop} {d e f : Screen × Bool}

theorem Flips.congr (h : Flips S d e) (hST : ∀ r c, S r c ↔ T r c) : Flips T d e := by
  rwa [show T = S from funext₂ fun r c => propext (hST r c).symm]

/-- Flips of disjoint sets, one after the other: the second finds its cells as the first found them. -/
theorem Flips.trans (h : Flips S d e) (k : Flips T e f) (hdisj : ∀ r c, S r c → ¬T r c) :
    Flips (fun r c => S r c ∨ T r c) d f where
  inside r c hrc := by
    rcases hrc with hs | ht
    · rw [k.outside r c (hdisj r c hs), h.inside r c hs]
    · rw [k.inside r c ht, h.outside r c fun hs => hdisj r c hs ht]
  outside r c hrc := by
    rw [not_or] at hrc
    obtain ⟨hs, ht⟩ := hrc
    rw [k.outside r c ht, h.outside r c hs]
  hit := by
    have hT : (∃ r c, T r c ∧ e.1.lit r c = true) ↔ ∃ r c, T r c ∧ d.1.lit r c = true :=
      exists₂_congr fun r c => and_congr_right fun ht => by rw [h.outside r c fun hs => hdisj r c hs ht]
    simp only [k.hit, h.hit, hT, or_and_right, exists_or, or_assoc]

/-- The same cells flipped twice are as they were. -/
theorem Flips.twice {fb gb kb : Screen} {p q p' q' : Bool} (h : Flips S (fb, p) (gb, q))
    (k : Flips S (gb, p') (kb, q')) : kb = fb := by
  refine Screen.ext_lit fun r c => ?_
  by_cases hs : S r c
  · simp [show kb.lit r c = _ from k.inside r c hs, show gb.lit r c = _ from h.inside r c hs]
  · exact (k.outside r c hs).trans (h.outside r c hs)

end

/-- A loop whose turns flip disjoint sets of cells flips their union. -/
theorem flips_foldl_range {g : Nat → Screen × Bool → Screen × Bool} {S : Nat → Nat → Nat → Prop}
    (hg : ∀ j d, Flips (S j) d (g j d)) (n : Nat)
    (hdisj : ∀ j k r c, j < k → k < n → S j r c → ¬S k r c) (d : Screen × Bool) :
    Flips (fun r c => ∃ j < n, S j r c) d ((List.range n).foldl (fun d j => g j d) d) := by
  induction n with
  | zero => exact ⟨by simp, by simp, by simp⟩
  | succ n ih =>
    have hfirst := ih fun j k r c hjk hk => hdisj j k r c hjk (Nat.lt_succ_of_lt hk)
    rw [List.range_succ, List.foldl_append]
    refine (hfirst.trans (hg n _) ?_).congr fun r c => (Nat.exists_lt_succ_right).symm
    rintro r c ⟨j, hj, hs⟩
    exact hdisj j n r c hj (Nat.lt_succ_self n) hs

/-! ## Drawing a bit, a row, a sprite -/

theorem flips_drawBit (bit : Bool) (row col : Nat) (d : Screen × Bool) :
    Flips (fun r c => bit = true ∧ SameCell r c row col) d (drawBit bit row col d) where
  inside r c h := by
    obtain ⟨hb, hrow, hcol⟩ := h
    simp [drawBit_lit, hb, hrow, hcol]
  outside r c h := by
    have hclear : (bit && decide (r % 32 = row % 32 ∧ c % 64 = col % 64)) = false := by
      simpa [SameCell] using h
    rw [drawBit_lit, hclear, Bool.xor_false]
  hit := by
    rw [drawBit_hit, Bool.or_eq_true, Bool.and_eq_true]
    refine or_congr_right ⟨fun ⟨hb, hl⟩ => ⟨row, col, ⟨hb, rfl, rfl⟩, hl⟩, ?_⟩
    rintro ⟨r, c, ⟨hb, hrc⟩, hl⟩
    exact ⟨hb, hrc.lit_eq d.1 ▸ hl⟩

/-- The 8 columns of a row are distinct cells. -/
theorem flips_drawRow (b : Byte) (row col : Nat) (d : Screen × Bool) :
    Flips (fun r c => ∃ j < 8, b.getLsbD (7 - j) = true ∧ SameCell r c row (col + j)) d (drawRow b row col d) := by
  refine flips_foldl_range (fun j d => flips_drawBit (b.getLsbD (7 - j)) row (col + j) d) 8 ?_ d
  rintro j k r c hjk hk ⟨-, -, hj⟩ ⟨-, -, hk'⟩
  omega

theorem drawSprite_append (bs cs : List Byte) (row col : Nat) (d : Screen × Bool) :
    drawSprite (bs ++ cs) row col d = drawSprite cs (row + bs.length) col (drawSprite bs row col d) := by
  induction bs generalizing row d with
  | nil => rfl
  | cons b bs ih =>
    rw [List.cons_append, drawSprite, ih, drawSprite, List.length_cons, Nat.add_assoc, Nat.add_comm 1]

theorem drawSprite_eq_foldl (m : Memory) (base : Word) (n row col : Nat) (d : Screen × Bool) :
    drawSprite (loadBytes m base n) row col d =
      (List.range n).foldl (fun d i => drawRow (m.read (dataAddr base i)) (row + i) col d) d := by
  induction n with
  | zero => rfl
  | succ n ih =>
    have hload : loadBytes m base (n + 1) = loadBytes m base n ++ [m.read (dataAddr base n)] := by
      simp [loadBytes, List.range_succ]
    rw [hload, drawSprite_append, ih, loadBytes_length, List.range_succ, List.foldl_append]
    rfl

/-- The cell lies under a set bit of the sprite that DRW Vx, Vy, n draws in state `s`. -/
def SpriteCell (x y : Reg) (n : Nat) (s : State) (r c : Nat) : Prop :=
  ∃ i < n, ∃ j < 8, (s.mem.read (dataAddr s.index i)).getLsbD (7 - j) = true ∧
    SameCell r c ((s.getV y).toNat % 32 + i) ((s.getV x).toNat % 64 + j)

/-- A set bit of the sprite on a cell of a given kind, said of the cell or of the bit. -/
theorem exists_spriteCell_iff (x y : Reg) (n : Nat) (s : State) (fb : Screen) (lit : Bool) :
    (∃ r c, SpriteCell x y n s r c ∧ fb.lit r c = lit) ↔
      ∃ i < n, ∃ j < 8, (s.mem.read (dataAddr s.index i)).getLsbD (7 - j) = true ∧
        fb.lit ((s.getV y).toNat % 32 + i) ((s.getV x).toNat % 64 + j) = lit := by
  constructor
  · rintro ⟨r, c, ⟨i, hi, j, hj, hb, hrc⟩, hl⟩
    exact ⟨i, hi, j, hj, hb, hrc.lit_eq fb ▸ hl⟩
  · rintro ⟨i, hi, j, hj, hb, hl⟩
    exact ⟨_, _, ⟨i, hi, j, hj, hb, rfl, rfl⟩, hl⟩

/-- The bit of the sprite at one of its places decides whether that place is flipped. -/
theorem spriteCell_place_iff {x y : Reg} {n i j : Nat} {s : State} (hn : n ≤ 15) (hi : i < n) (hj : j < 8) :
    SpriteCell x y n s ((s.getV y).toNat % 32 + i) ((s.getV x).toNat % 64 + j) ↔
      (s.mem.read (dataAddr s.index i)).getLsbD (7 - j) = true := by
  constructor
  · rintro ⟨k, hk, l, hl, hb, hcell⟩
    obtain ⟨rfl, rfl⟩ := hcell.offsets_eq (by omega) (by omega) (by omega) (by omega)
    exact hb
  · exact fun hb => ⟨i, hi, j, hj, hb, rfl, rfl⟩

/-- The rows of a sprite are distinct, and so are the columns of each. -/
theorem flips_drawSprite (x y : Reg) {n : Nat} (s : State) (hn : n ≤ 15) (d : Screen × Bool) :
    Flips (SpriteCell x y n s) d
      (drawSprite (loadBytes s.mem s.index n) ((s.getV y).toNat % 32) ((s.getV x).toNat % 64) d) := by
  rw [drawSprite_eq_foldl]
  refine flips_foldl_range
    (fun i d => flips_drawRow (s.mem.read (dataAddr s.index i)) ((s.getV y).toNat % 32 + i) _ d) n ?_ d
  rintro i k r c hik hk ⟨-, -, -, hi, -⟩ ⟨-, -, -, hk', -⟩
  omega

/-! ## DRW -/

theorem flagByte_eq_one_iff (b : Bool) : flagByte b = 1 ↔ b = true := by cases b <;> decide

/-- DRW flips the sprite's cells and leaves the collision in VF. -/
theorem exec_drw_flips {x y : Reg} {n : Nat} {s t : State} (hn : n ≤ 15) (h : exec (.drw x y n) s = .next t) :
    ∃ hit, t.getV 15 = flagByte hit ∧ Flips (SpriteCell x y n s) (s.fb, false) (t.fb, hit) := by
  cases h
  exact ⟨_, State.getV_setV_same s 15 _, flips_drawSprite x y s hn (s.fb, false)⟩

/-- The accesses are noted in the report, and nothing else is. -/
theorem reportsWrap_noteWrap (s : State) (n : Nat) : ReportsWrap n s (s.noteWrap n) :=
  ⟨rfl, rfl, by simp [State.noteWrap, wraps_iff_exists]⟩

/-- A state in which memory, `I` and the two coordinates are the same has its sprite at the same cells. -/
theorem spriteCell_iff_of_onlyWrites {x y : Reg} {s t : State} (hx : x ≠ 15) (hy : y ≠ 15)
    (h : OnlyWrites [15] [.screen, .report] s t) (n r c : Nat) : SpriteCell x y n t r c ↔ SpriteCell x y n s r c := by
  obtain ⟨hregs, hparts, -, -⟩ := h
  have hmem : ∀ a, t.mem.read a = s.mem.read a := hparts .memory (by simp)
  have hindex : t.index = s.index := hparts .index (by simp)
  simp only [SpriteCell, hmem, hindex, hregs x (by simpa using hx), hregs y (by simpa using hy)]

/-! ## The statements -/

/-- Settles O15: CLS is one update of the screen. -/
theorem clearScreenUnlightsEveryCell : Obligations.ClearScreenUnlightsEveryCell :=
  ⟨rfl, fun s => ⟨_, rfl, fun _ => Screen.lit_blank _ _, onlyWrites_setScreen s _⟩⟩

/-- Settles O16: DRW flips the sprite's cells (`exec_drw_flips`), and a place of the sprite is one of them exactly when
its bit is set. -/
theorem drawXorsTheSprite : Obligations.DrawXorsTheSprite := by
  intro x y n s hn row col bit collides
  obtain ⟨t, ht, hframe⟩ := exec_onlyWrites (.drw x y n) s
  obtain ⟨hit, hvf, hflips⟩ := exec_drw_flips hn ht
  have hcollides : hit = true ↔ collides := by
    simpa [exists_spriteCell_iff] using hflips.hit
  refine ⟨decode_encode (i := .drw x y n) (by simpa [Instr.wf] using hn), t, ht, ?_, ?_, ?_, ?_, ?_, hframe⟩
  · intro r hr c hc
    have hplace : SpriteCell x y n s (row + r) (col + c) ↔ bit r c = true := spriteCell_place_iff hn hr hc
    cases hb : bit r c with
    | true => simpa using hflips.inside _ _ (hplace.2 hb)
    | false => simpa using hflips.outside _ _ (by simp [hplace, hb])
  · intro a b hout
    refine hflips.outside a b ?_
    rintro ⟨r, hr, c, hc, -, hcell⟩
    exact hout r hr c hc hcell
  · intro hc
    rw [hvf, flagByte_eq_one_iff, hcollides]
    exact hc
  · intro hc
    rw [hvf, Bool.eq_false_iff.2 (mt hcollides.1 hc)]
    rfl
  · cases ht
    exact reportsWrap_noteWrap _ n

/-- Settles O17: the first draw leaves the sprite's cells where they are, so the second flips the same cells back; it
collides on those that the first one lit. -/
theorem drawingTwiceRestoresTheScreen : Obligations.DrawingTwiceRestoresTheScreen := by
  intro x y n s hx hy hn
  obtain ⟨t, ht, hframe⟩ := exec_onlyWrites (.drw x y n) s
  obtain ⟨u, hu, -⟩ := exec_onlyWrites (.drw x y n) t
  obtain ⟨_, -, hfirst⟩ := exec_drw_flips hn ht
  obtain ⟨hit, hvf, hflips⟩ := exec_drw_flips hn hu
  have hsecond := hflips.congr (spriteCell_iff_of_onlyWrites hx hy hframe n)
  refine ⟨t, ht, u, hu, hfirst.twice hsecond, ?_⟩
  calc u.getV 15 = 1
      ↔ ∃ r c, SpriteCell x y n s r c ∧ t.fb.lit r c = true := by
        rw [hvf, flagByte_eq_one_iff]; simpa using hsecond.hit
    _ ↔ ∃ r c, SpriteCell x y n s r c ∧ s.fb.lit r c = false :=
        exists₂_congr fun r c => and_congr_right fun hs => by simp [show t.fb.lit r c = _ from hfirst.inside r c hs]
    _ ↔ _ := exists_spriteCell_iff x y n s s.fb false

end Sys2Proof.Machine
end

section
/-! Control transfer (spec 41 R110 to R118): the return stack and its two faults, the jumps, the skips on registers and
bytes, and the jump to itself that ends a run (70 R252). -/

namespace Sys2Proof.Machine

/-! ## A piece of state written back -/

/-- A piece of state that ends as it began need not stand among those written. -/
theorem OnlyWrites.restrict {regs : List Reg} {parts parts' : List Part} {s t : State} (h : OnlyWrites regs parts s t)
    (hback : ∀ p ∈ parts, p ∉ parts' → p.Same s t) : OnlyWrites regs parts' s t := by
  obtain ⟨hregs, hparts, hkey, hparams⟩ := h
  refine ⟨hregs, fun p hp => ?_, hkey, hparams⟩
  by_cases hw : p ∈ parts
  · exact hback p hw hp
  · exact hparts p hw

/-! ## CALL and RET -/

theorem takesFault_takeHandlerFault (s : State) (c : FaultCode) (i : Instr) :
    TakesFault c (encode i) s (s.takeHandlerFault c i) :=
  ⟨rfl, rfl, rfl, rfl, rfl, rfl, onlyWrites_takeHandlerFault s c i⟩

/-- RET moves `SP` and `pc` alone; the slot it reads keeps its value (10 R28). -/
theorem onlyWrites_return (s : State) (sp : Fin 17) (w : Word) :
    OnlyWrites [] [.sp, .pc] s ((s.setCalls s.stack sp).setPc w) :=
  (onlyWrites_setSp s sp).trans (onlyWrites_setPc _ w)

theorem onlyWrites_push (s : State) (stack : Vector Word 16) (sp : Fin 17) (w : Word) :
    OnlyWrites [] [.stack, .sp, .pc] s ((s.setCalls stack sp).setPc w) :=
  (onlyWrites_setCalls s stack sp).trans (onlyWrites_setPc _ w)

/-- Settles O20: RET's only writes are `SP` and `pc`, and with CALL's push before it both end as they were before the
push. -/
theorem returnUndoesCall : Obligations.ReturnUndoesCall := by
  intro nnn s w hsp
  refine ⟨_, exec_call_of_lt nnn hsp, _, exec_ret_of_pos (Nat.succ_pos s.sp.val), ?_⟩
  have hpc : (s.stack.set s.sp.val s.pc hsp)[s.sp.val] = s.pc := Vector.getElem_set_self hsp
  refine ⟨hpc, rfl, Vector.getElem?_set_self hsp, fun j hj => Vector.getElem?_set_ne hsp hj.symm, ?_⟩
  refine (((onlyWrites_push s _ _ _).trans (onlyWrites_setPc _ w)).trans (onlyWrites_return _ _ _)).restrict ?_
  intro p hp hstack
  cases p with
  | sp => rfl
  | pc => exact hpc
  | _ => simp at hp hstack

/-- Settles O18, by whether the stack is empty. -/
theorem returnPopsOrUnderflows : Obligations.ReturnPopsOrUnderflows := by
  refine ⟨decode_encode (i := .ret) rfl, fun s => ⟨fun hsp => ?_, fun hsp => ?_⟩⟩
  · exact ⟨_, exec_ret_of_pos hsp, Nat.sub_add_cancel hsp, (Vector.getElem?_eq_getElem _).symm,
      onlyWrites_return s _ _⟩
  · exact ⟨_, exec_ret_of_empty hsp, takesFault_takeHandlerFault s .stackUnderflow .ret⟩

/-- Settles O19, by whether the stack is full. -/
theorem callPushesOrOverflows : Obligations.CallPushesOrOverflows := by
  refine fun nnn s => ⟨decode_encode (i := .call nnn) rfl, fun hsp => ?_, fun hsp => ?_⟩
  · exact ⟨_, exec_call_of_lt nnn hsp, Vector.getElem?_set_self hsp, fun j hj => Vector.getElem?_set_ne hsp hj.symm,
      rfl, addrWord_toNat nnn, onlyWrites_push s _ _ _⟩
  · exact ⟨_, exec_call_of_full nnn hsp, takesFault_takeHandlerFault s .stackOverflow (.call nnn)⟩

/-! ## Jumps -/

theorem exec_jpNnn (nnn : Addr) (s : State) : exec (.jpNnn nnn) s = .next (s.setPc (addrWord nnn)) := rfl

theorem exec_jpV0Nnn (nnn : Addr) (s : State) :
    exec (.jpV0Nnn nnn) s = .next (s.setPc (byteWord (s.getV 0) + addrWord nnn)) := rfl

/-- The one address from which there is no word to fetch (30 R79). -/
theorem fetch_setPc_addrWord_eq_none (s : State) (nnn : Addr) :
    (s.setPc (addrWord nnn)).fetch = none ↔ nnn = 0xFFF := by
  rw [fetch_eq_none, State.setPc_pc, addrWord_toNat]
  bv_omega

/-- The sum is not reduced: it has room in 16 bits (41 R117). -/
theorem jumpTarget_toNat (b : Byte) (nnn : Addr) : (byteWord b + addrWord nnn).toNat = b.toNat + nnn.toNat := by
  have hb : (byteWord b).toNat = b.toNat := BitVec.toNat_setWidth_of_le (by decide)
  rw [BitVec.toNat_add, hb, addrWord_toNat]
  omega

/-- Settles O21: JP is one update of `pc`, and `fetch_setPc_addrWord_eq_none` says which address cannot be fetched. -/
theorem jumpSetsPc : Obligations.JumpSetsPc := fun nnn s =>
  ⟨decode_encode (i := .jpNnn nnn) rfl, _, exec_jpNnn nnn s, addrWord_toNat nnn, fetch_setPc_addrWord_eq_none s nnn,
    onlyWrites_setPc s _⟩

/-- Settles O22: JP V0 is one update of `pc`, to a sum that `jumpTarget_toNat` and `jumpTarget_le` speak of. -/
theorem jumpWithOffsetAddsV0 : Obligations.JumpWithOffsetAddsV0 := fun nnn s =>
  ⟨decode_encode (i := .jpV0Nnn nnn) rfl, _, exec_jpV0Nnn nnn s, jumpTarget_toNat _ nnn, jumpTarget_le _ nnn,
    onlyWrites_setPc s _⟩

/-! ## Skips -/

theorem skipsIf_skipIf (c : Prop) [Decidable c] (s : State) : SkipsIf c s (s.skipIf (decide c)) := by
  refine ⟨fun hc => ?_, fun hc => ?_, onlyWrites_skipIf s _⟩
  · rw [skipIf_pc, decide_eq_true hc, if_pos rfl]
  · rw [skipIf_pc, decide_eq_false hc, if_neg Bool.false_ne_true]

/-- Settles O23: both are `skipIf` with their condition. -/
theorem immediateSkipsCompareRegisterAndByte : Obligations.ImmediateSkipsCompareRegisterAndByte := fun x kk s =>
  ⟨⟨decode_encode (i := .seVxKk x kk) rfl, _, rfl, skipsIf_skipIf (s.getV x = kk) s⟩,
    decode_encode (i := .sneVxKk x kk) rfl, _, rfl, skipsIf_skipIf (s.getV x ≠ kk) s⟩

/-- A word of family 5 with another low nibble (30 R84). -/
theorem decode_family5_reserved (x y : Reg) {n : BitVec 4} (hn : n ≠ 0) :
    decode (encodeXyN 0x5 x y n) = .error .family5 := by
  simpa [decode] using hn

/-- A word of family 9 with another low nibble (30 R84). -/
theorem decode_family9_reserved (x y : Reg) {n : BitVec 4} (hn : n ≠ 0) :
    decode (encodeXyN 0x9 x y n) = .error .family9 := by
  simpa [decode] using hn

/-- Settles O24: both are `skipIf` with their condition, and the other words of their families are rejected. -/
theorem registerSkipsCompareTwoRegisters : Obligations.RegisterSkipsCompareTwoRegisters := fun x y s =>
  ⟨⟨decode_encode (i := .seVxVy x y) rfl, fun _ => decode_family5_reserved x y, _, rfl,
      skipsIf_skipIf (s.getV x = s.getV y) s⟩,
    decode_encode (i := .sneVxVy x y) rfl, fun _ => decode_family9_reserved x y, _, rfl,
      skipsIf_skipIf (s.getV x ≠ s.getV y) s⟩

/-! ## The jump to itself (70 R252) -/

/-- A step of JP nnn (41 R111). -/
theorem step_jpNnn {s : State} {nnn : Addr} (hh : s.halted = false) (hf : s.fetch = some (encode (.jpNnn nnn))) :
    step s = .next (endStep ((beginStep s).setPc (addrWord nnn))) := by
  rw [step_of_instr hh hf (decode_encode rfl), exec_jpNnn, finishStep]

theorem onlyWrites_step_jpNnn (s : State) (nnn : Addr) :
    OnlyWrites [] [.pc, .report, .pc, .dt, .st] s (endStep ((beginStep s).setPc (addrWord nnn))) :=
  ((onlyWrites_beginStep s).trans (onlyWrites_setPc _ _)).trans (onlyWrites_endStep _)

@[simp] theorem endStep_mem (s : State) : (endStep s).mem = s.mem := by simp [endStep_fields]

/-- Settles O46: the jump puts `pc` back where the step found it, so the next fetch reads the same word. -/
theorem selfJumpIsTheEndOfARun : Obligations.SelfJumpIsTheEndOfARun := by
  rintro e s ⟨hh, hpc, nnn, hf, he⟩
  have hback : (endStep ((beginStep s).setPc (addrWord nnn))).pc = s.pc := by
    rw [endStep_pc, State.setPc_pc, he, hpc]
  refine ⟨_, step_jpNnn hh hf, ⟨?_, hback.trans hpc, nnn, ?_, he⟩, ?_⟩
  · rw [endStep_halted]
    exact hh
  · rw [fetch_congr hback (endStep_mem _)]
    exact hf
  · refine (onlyWrites_step_jpNnn s nnn).restrict fun p hp hp' => ?_
    cases p with
    | pc => exact hback
    | _ => simp at hp hp'

end Sys2Proof.Machine
end

section
/-! Register loads, arithmetic and logic (spec 42 R130 to R142): what an operation leaves in its register and in VF, by the
order of its two writes (30 R88). -/

namespace Sys2Proof.Machine

/-! ## The values of the flags and of the operations on bytes -/

theorem flagByte_toNat (b : Bool) : (flagByte b).toNat = if b then 1 else 0 := by cases b <;> rfl

theorem greaterFlag_toNat (a b : Byte) : (greaterFlag a b).toNat = if a.toNat > b.toNat then 1 else 0 := by
  simp [greaterFlag, flagByte_toNat]

theorem carryFlag_eq (a b : Byte) : carryFlag a b = if a.toNat + b.toNat > 255 then 1 else 0 := by
  simp [carryFlag, flagByte]

theorem lowBitFlag_toNat (a : Byte) : (lowBitFlag a).toNat = a.toNat % 2 := by
  rw [lowBitFlag, BitVec.toNat_and]
  exact Nat.and_one_is_mod a.toNat

theorem and_highBit_ne_zero_iff (a : Byte) : a &&& 0x80 ≠ 0 ↔ a.getLsbD 7 = true := by
  have h : a &&& 0x80 = if a.getLsbD 7 then BitVec.twoPow 8 7 else 0 := BitVec.and_twoPow a 7
  rw [h]
  cases a.getLsbD 7 <;> decide

theorem highBitFlag_toNat (a : Byte) : (highBitFlag a).toNat = a.toNat / 128 := by
  have hbit : a.getLsbD 7 = decide (a.toNat / 128 % 2 = 1) := Nat.testBit_eq_decide_div_mod_eq
  simp only [highBitFlag, flagByte_toNat, and_highBit_ne_zero_iff, hbit, decide_eq_true_eq]
  split <;> omega

theorem byte_sub_toNat (a b : Byte) : (a - b).toNat = (a.toNat + 256 - b.toNat) % 256 := by
  rw [BitVec.toNat_sub]
  omega

theorem byte_shiftRight_one_toNat (a : Byte) : (a >>> 1).toNat = a.toNat / 2 := by
  rw [BitVec.toNat_ushiftRight, Nat.shiftRight_eq_div_pow, Nat.pow_one]

theorem byte_shiftLeft_one_toNat (a : Byte) : (a <<< 1).toNat = a.toNat * 2 % 256 := by
  rw [BitVec.toNat_shiftLeft, Nat.shiftLeft_eq, Nat.pow_one]

/-! ## The flag beside a result -/

section
variable (s : State)

/-- A result, and VF cleared after it: in VF itself the result is lost. -/
theorem result_then_clearedFlag (x : Reg) (b : Byte) :
    ((s.setV x b).setV 15 0).getV 15 = 0 ∧ (x ≠ 15 → ((s.setV x b).setV 15 0).getV x = b) ∧
      OnlyWrites [x, 15] [] s ((s.setV x b).setV 15 0) :=
  ⟨State.getV_setV_same _ _ _, fun hx => by rw [State.getV_setV_ne _ hx, State.getV_setV_same],
    onlyWrites_setV_setVF s x b 0⟩

/-- VF stands beside a result written after it in another register. -/
theorem getV_flag_of_ne {x : Reg} (hx : x ≠ 15) (c b : Byte) : ((s.setV 15 c).setV x b).getV 15 = c := by
  rw [State.getV_setV_ne _ hx.symm, State.getV_setV_same]

/-- A difference written after VF: an operand that is VF reads as the flag just written (42 R137, R139). -/
theorem difference_after_flag (x m n : Reg) (c : Byte) :
    (((s.setV 15 c).setV x ((s.setV 15 c).getV m - (s.setV 15 c).getV n)).getV x).toNat =
      ((if m = 15 then c else s.getV m).toNat + 256 - (if n = 15 then c else s.getV n).toNat) % 256 := by
  rw [State.getV_setV_same, byte_sub_toNat, State.getV_setV, State.getV_setV]

/-- A difference of VF and VF, written to VF. -/
theorem difference_of_flag (c : Byte) :
    ((s.setV 15 c).setV 15 ((s.setV 15 c).getV 15 - (s.setV 15 c).getV 15)).getV 15 = 0 :=
  (State.getV_setV_same _ _ _).trans (BitVec.sub_self _)

/-! ## The handlers that read VF as just written -/

/-- SUB writes the flag and then the difference of the registers as they are with it (42 R137). -/
theorem exec_subVxVy (x y : Reg) : exec (.subVxVy x y) s =
    let s1 := s.setV 15 (greaterFlag (s.getV x) (s.getV y))
    .next (s1.setV x (s1.getV x - s1.getV y)) := rfl

/-- SUBN, the operands exchanged (42 R139). -/
theorem exec_subnVxVy (x y : Reg) : exec (.subnVxVy x y) s =
    let s1 := s.setV 15 (greaterFlag (s.getV y) (s.getV x))
    .next (s1.setV x (s1.getV y - s1.getV x)) := rfl

/-- SHR writes the flag and then shifts the register as it is with it (42 R138). -/
theorem exec_shrVxVy (x y : Reg) : exec (.shrVxVy x y) s =
    let s1 := s.setV 15 (lowBitFlag (s.getV x))
    .next (s1.setV x (s1.getV x >>> 1)) := rfl

/-- SHL writes the flag and then shifts the register as it is with it (42 R140). -/
theorem exec_shlVxVy (x y : Reg) : exec (.shlVxVy x y) s =
    let s1 := s.setV 15 (highBitFlag (s.getV x))
    .next (s1.setV x (s1.getV x <<< 1)) := rfl

end

/-! ## The statements -/

/-- Settles O28, by which of `x` and `y` is the flag: that operand reads as the flag just written. -/
theorem subtractWritesFlagThenDifference : Obligations.SubtractWritesFlagThenDifference := by
  intro x y s
  have hdiff := difference_after_flag s x x y (greaterFlag (s.getV x) (s.getV y))
  refine ⟨decode_encode (i := .subVxVy x y) rfl, _, exec_subVxVy s x y, onlyWrites_setVF_setV s x _ _,
    fun hx => ?_, fun hx hy => ?_, fun hx hy => ?_, fun hx hy => ?_, fun hx hy => ?_⟩
  · rw [getV_flag_of_ne s hx, greaterFlag_toNat]
  · rw [hdiff, if_neg hx, if_neg hy]
  · rw [hdiff, if_neg hx, if_pos hy, greaterFlag_toNat]
  · subst hx
    rw [hdiff, if_pos rfl, if_neg hy, greaterFlag_toNat]
  · subst hx hy
    exact difference_of_flag s _

/-- Settles O29, by which of `x` and `y` is the flag; the operands of the difference are exchanged. -/
theorem reverseSubtractWritesFlagThenDifference : Obligations.ReverseSubtractWritesFlagThenDifference := by
  intro x y s
  have hdiff := difference_after_flag s x y x (greaterFlag (s.getV y) (s.getV x))
  refine ⟨decode_encode (i := .subnVxVy x y) rfl, _, exec_subnVxVy s x y, onlyWrites_setVF_setV s x _ _,
    fun hx => ?_, fun hx hy => ?_, fun hx hy => ?_, fun hx hy => ?_, fun hx hy => ?_⟩
  · rw [getV_flag_of_ne s hx, greaterFlag_toNat]
  · rw [hdiff, if_neg hy, if_neg hx]
  · rw [hdiff, if_pos hy, if_neg hx, greaterFlag_toNat]
  · subst hx
    rw [hdiff, if_neg hy, if_pos rfl, greaterFlag_toNat]
  · subst hx hy
    exact difference_of_flag s _

/-- Settles O30: with `x` the flag, the bit moved out is itself shifted: bit 0 falls out, bit 7 becomes 2. -/
theorem shiftsWriteTheBitMovedOut : Obligations.ShiftsWriteTheBitMovedOut := by
  refine fun x y s => ⟨⟨decode_encode (i := .shrVxVy x y) rfl, _, exec_shrVxVy s x y, fun hx => ⟨?_, ?_⟩, fun hx => ?_,
      onlyWrites_setVF_setV s x _ _⟩,
    decode_encode (i := .shlVxVy x y) rfl, _, exec_shlVxVy s x y, fun hx => ⟨?_, ?_⟩, fun hx => ?_,
      onlyWrites_setVF_setV s x _ _⟩
  · rw [State.getV_setV_same, byte_shiftRight_one_toNat, State.getV_setV_ne s hx]
  · rw [getV_flag_of_ne s hx, lowBitFlag_toNat]
  · subst hx
    apply BitVec.eq_of_toNat_eq
    rw [State.getV_setV_same, byte_shiftRight_one_toNat, State.getV_setV_same, lowBitFlag_toNat]
    exact Nat.div_eq_of_lt (Nat.mod_lt _ Nat.two_pos)
  · rw [State.getV_setV_same, byte_shiftLeft_one_toNat, State.getV_setV_ne s hx]
  · rw [getV_flag_of_ne s hx, highBitFlag_toNat]
  · subst hx
    rw [State.getV_setV_same, byte_shiftLeft_one_toNat, State.getV_setV_same, highBitFlag_toNat]
    omega

/-- Settles O25: each is one `setV`. -/
theorem loadsAndImmediateAddWriteOneRegister : Obligations.LoadsAndImmediateAddWriteOneRegister := fun x y kk s =>
  ⟨⟨decode_encode (i := .ldVxKk x kk) rfl, _, rfl, State.getV_setV_same s x kk, onlyWrites_setV s x kk⟩,
    ⟨decode_encode (i := .addVxKk x kk) rfl, _, rfl, by rw [State.getV_setV_same, BitVec.toNat_add],
      onlyWrites_setV s x _⟩,
    decode_encode (i := .ldVxVy x y) rfl, _, rfl, State.getV_setV_same s x _, onlyWrites_setV s x _⟩

/-- Settles O26: each is its result and then VF cleared. -/
theorem logicWritesResultThenClearsFlag : Obligations.LogicWritesResultThenClearsFlag := fun x y s =>
  ⟨⟨decode_encode (i := .orVxVy x y) rfl, _, rfl, result_then_clearedFlag s x _⟩,
    ⟨decode_encode (i := .andVxVy x y) rfl, _, rfl, result_then_clearedFlag s x _⟩,
    decode_encode (i := .xorVxVy x y) rfl, _, rfl, result_then_clearedFlag s x _⟩

/-- Settles O27: the carry first, then the sum of the old values over it. -/
theorem addWritesSumAndCarry : Obligations.AddWritesSumAndCarry := by
  refine fun x y s => ⟨decode_encode (i := .addVxVy x y) rfl, _, rfl, ?_, fun hx => ?_, onlyWrites_setVF_setV s x _ _⟩
  · rw [State.getV_setV_same, BitVec.toNat_add]
  · rw [getV_flag_of_ne s hx, carryFlag_eq]

/-- RND writes the masked byte and counts it as drawn (42 R141). -/
theorem exec_rnd (x : Reg) (kk : Byte) (s : State) :
    exec (.rnd x kk) s = .next ((s.setV x (Config.randByte s.draws &&& kk)).setDraws (s.draws + 1)) := rfl

/-- Settles O31: the mask has no bit in common with its complement. -/
theorem randomByteIsMasked : Obligations.RandomByteIsMasked := by
  intro x kk s
  have hx : ((s.setV x (Config.randByte s.draws &&& kk)).setDraws (s.draws + 1)).getV x = Config.randByte s.draws &&& kk :=
    State.getV_setV_same s x _
  refine ⟨decode_encode (i := .rnd x kk) rfl, _, exec_rnd x kk s, hx, ?_, fun hkk => ?_, rfl,
    (onlyWrites_setV s x _).trans (onlyWrites_setDraws _ _)⟩
  · rw [hx, BitVec.and_assoc, BitVec.and_not_self]
    exact BitVec.and_zero
  · rw [hx, hkk]
    exact BitVec.and_zero

end Sys2Proof.Machine
end

section
/-! The index register and memory transfers (spec 43 R150 to R156): the values written to `I`, the digits and registers
stored at `I` on, and the registers loaded from there. -/

namespace Sys2Proof.Machine

/-! ## The values written to I -/

theorem byteWord_toNat (b : Byte) : (byteWord b).toNat = b.toNat := BitVec.toNat_setWidth_of_le (by decide)

/-- Five bytes a glyph, with room in 16 bits (43 R153). -/
theorem glyphAddr_toNat (b : Byte) : (glyphAddr b).toNat = b.toNat * 5 := by
  have hlt : b.toNat * 5 < 2 ^ 16 := by omega
  rw [glyphAddr, BitVec.toNat_mul, byteWord_toNat]
  exact Nat.mod_eq_of_lt hlt

/-! ## Stored digits (43 R154) -/

/-- Each decimal digit is a byte, so the digits as bytes are the digits. -/
theorem decimalDigits_toNat (b : Byte) :
    (decimalDigits b).map BitVec.toNat = [b.toNat / 100, b.toNat / 10 % 10, b.toNat % 10] := by
  have hhundreds : b.toNat / 100 < 256 := by omega
  have htens : b.toNat / 10 % 10 < 256 := by omega
  have hones : b.toNat % 10 < 256 := by omega
  simp [decimalDigits, Nat.mod_eq_of_lt, hhundreds, htens, hones]

/-- Each digit stands at its address after the store. -/
theorem storeDigits_read (base : Word) (b : Byte) {m : Memory} (hm : m.wf = true) {j : Nat} (hj : j < 3) :
    ((storeBytes base 0 (decimalDigits b) m).read (dataAddr base j)).toNat =
      [b.toNat / 100, b.toNat / 10 % 10, b.toNat % 10][j] := by
  have hread := storeBytes_read_inside base (decimalDigits b) 0 m hm (by simp) j hj
  rw [Nat.zero_add] at hread
  simp only [hread, ← decimalDigits_toNat]
  exact (List.getElem_map BitVec.toNat).symm

/-! ## The statements -/

/-- Settles O33: the three digits stand at their addresses (`storeDigits_read`), and three accesses are noted. -/
theorem decimalDigitsAreStored : Obligations.DecimalDigitsAreStored := by
  intro x s
  obtain ⟨t, ht, hframe⟩ := exec_onlyWrites (.ldBVx x) s
  refine ⟨decode_encode (i := .ldBVx x) rfl, t, ht, fun hm => ?_, fun a h0 h1 h2 => ?_, ?_, hframe⟩
  · cases ht
    exact ⟨storeDigits_read s.index (s.getV x) hm (j := 0) (by decide),
      storeDigits_read s.index (s.getV x) hm (j := 1) (by decide),
      storeDigits_read s.index (s.getV x) hm (j := 2) (by decide)⟩
  · refine exec_read_outside ht hframe fun k (hk : k < 3) => ?_
    match k, hk with
    | 0, _ => exact h0
    | 1, _ => exact h1
    | 2, _ => exact h2
  · cases ht
    exact reportsWrap_noteWrap (s.setMem _) 3

/-- Settles O34: V0 to Vx stand at their addresses (`storeRegs_read`), and the accesses numbered 0 to `x` are noted. -/
theorem registersAreStored : Obligations.RegistersAreStored := by
  intro x s
  obtain ⟨t, ht, hframe⟩ := exec_onlyWrites (.ldMiVx x) s
  refine ⟨decode_encode (i := .ldMiVx x) rfl, t, ht, fun hm r hr => ?_, fun a ha => ?_, ?_, hframe⟩
  · cases ht
    exact storeRegs_read hm hr
  · refine exec_read_outside ht hframe fun k (hk : k < x.val + 1) => ?_
    exact ha ⟨k, by omega⟩ (Nat.le_of_lt_succ hk)
  · cases ht
    exact reportsWrap_noteWrap (s.setMem _) (x.val + 1)

/-- Settles O35: `loadRegs_getElem` has both the registers up to `x` and those above it. -/
theorem registersAreLoaded : Obligations.RegistersAreLoaded := by
  intro x s
  obtain ⟨t, ht, hframe⟩ := exec_onlyWrites (.ldVxMi x) s
  have hregs (r : Reg) : t.getV r = if r ≤ x then s.mem.read (dataAddr s.index r.val) else s.getV r := by
    cases ht
    exact loadRegs_getElem s.mem s.index x s.v r
  refine ⟨decode_encode (i := .ldVxMi x) rfl, t, ht, fun r hr => ?_, fun r hr => ?_, ?_, hframe⟩
  · rw [hregs, if_pos hr]
  · rw [hregs, if_neg (Fin.not_le.2 hr)]
  · cases ht
    exact reportsWrap_noteWrap (s.setRegs _) (x.val + 1)

/-- Settles O32: each is one `setIndex`. -/
theorem indexInstructionsWriteI : Obligations.IndexInstructionsWriteI := fun x nnn s =>
  ⟨⟨decode_encode (i := .ldINnn nnn) rfl, _, rfl, addrWord_toNat nnn, onlyWrites_setIndex s _⟩,
    ⟨decode_encode (i := .addIVx x) rfl, _, rfl,
      by rw [State.setIndex_index, BitVec.toNat_add, byteWord_toNat], onlyWrites_setIndex s _⟩,
    decode_encode (i := .ldFVx x) rfl, _, rfl, glyphAddr_toNat _, onlyWrites_setIndex s _⟩

end Sys2Proof.Machine
end

section
/-! Keypad and timer instructions (spec 44 R170 to R176): the skips on a key, the wait for a key, and the timers, read and
set by a handler and counted down at the end of its step (30 R89, 60 R211). -/

namespace Sys2Proof.Machine

/-! ## Keys (44 R170 to R172, R174) -/

/-- Every key number that a key skip tests is that of a key (44 R170). -/
theorem getElem?_keyIndex (key : Vector Bool 16) (b : Byte) : key[b.toNat % 16]? = some key[keyIndex b] :=
  Vector.getElem?_eq_getElem (Nat.mod_lt _ (by decide))

theorem skipsIf_of_iff {c : Prop} {b : Bool} (h : b = true ↔ c) (s : State) : SkipsIf c s (s.skipIf b) := by
  obtain rfl : (b = true) = c := propext h
  simpa only [Bool.decide_eq_true] using skipsIf_skipIf (b = true) s

/-- A key's number fits in a register. -/
theorem keyByte_toNat (k : Fin 16) : (BitVec.ofNat 8 k.val).toNat = k.val :=
  Nat.mod_eq_of_lt (by omega)

/-- Settles O40: `firstKey` finds the lowest pressed key, or none, and the handler follows it. -/
theorem waitForKeyTakesTheLowestOrRewinds : Obligations.WaitForKeyTakesTheLowestOrRewinds := by
  refine fun x s => ⟨decode_encode (i := .ldVxK x) rfl, fun k hk hlow => ?_, fun hnone => ?_⟩
  · have hfirst : firstKey s.key = some k := (firstKey_eq_some s.key k).2 ⟨hk, hlow⟩
    refine ⟨_, exec_ldVxK_of_some x hfirst, ?_, onlyWrites_setV s x _⟩
    rw [State.getV_setV_same, keyByte_toNat]
  · have hfirst : firstKey s.key = none := (firstKey_eq_none s.key).2 hnone
    exact ⟨_, exec_ldVxK_of_none x hfirst, rfl, onlyWrites_setPc s _⟩

/-- Settles O39: both are `skipIf`, on the key that `keyIndex` names and on its negation. -/
theorem keySkipsTestTheKeyModulo16 : Obligations.KeySkipsTestTheKeyModulo16 := by
  refine fun x s => ⟨⟨decode_encode (i := .skp x) rfl, _, rfl, skipsIf_of_iff ?_ s⟩,
    decode_encode (i := .sknp x) rfl, _, rfl, skipsIf_of_iff ?_ s⟩
  · exact (key_pressed_iff s.key (s.getV x)).symm
  · rw [getElem?_keyIndex, Option.some_inj, Bool.not_eq_true']

/-! ## Timers (44 R173, R175, R176) -/

theorem exec_ldVxDt (x : Reg) (s : State) : exec (.ldVxDt x) s = .next (s.setV x s.dt) := rfl

theorem exec_ldDtVx (x : Reg) (s : State) : exec (.ldDtVx x) s = .next (s.setTimers (s.getV x) s.st) := rfl

theorem exec_ldStVx (x : Reg) (s : State) : exec (.ldStVx x) s = .next (s.setTimers s.dt (s.getV x)) := rfl

@[simp] theorem endStep_getV (s : State) (r : Reg) : (endStep s).getV r = s.getV r := by
  simp [State.getV, endStep_fields]

/-- A step whose handler raises no fault ends its handler's state and counts from the timers found there (30 R89). -/
theorem step_of_exec {s u : State} {i : Instr} (hi : i.wf = true) (hh : s.halted = false)
    (hf : s.fetch = some (encode i)) (hu : exec i (beginStep s) = .next u) (hrun : u.halted = false) :
    step s = .next (endStep u) ∧ TimersAfter u.dt u.st (endStep u) :=
  ⟨by rw [step_of_instr hh hf (decode_encode hi), hu, finishStep], timersAfter_endStep hrun⟩

/-- Settles O41: each handler is one update, which leaves the timers that `step_of_exec` then counts from. -/
theorem timerInstructionsReadAndSet : Obligations.TimerInstructionsReadAndSet := by
  refine ⟨fun x s => ⟨?_, ?_, ?_⟩, fun x s hh => ⟨fun hf => ?_, fun hf => ?_, fun hf => ?_⟩⟩
  · exact ⟨decode_encode (i := .ldVxDt x) rfl, _, exec_ldVxDt x s, State.getV_setV_same s x _, onlyWrites_setV s x _⟩
  · exact ⟨decode_encode (i := .ldDtVx x) rfl, _, exec_ldDtVx x s, rfl, onlyWrites_setDt s _⟩
  · exact ⟨decode_encode (i := .ldStVx x) rfl, _, exec_ldStVx x s, rfl, onlyWrites_setSt s _⟩
  · obtain ⟨hstep, htimers⟩ := step_of_exec (i := .ldVxDt x) rfl hh hf (exec_ldVxDt x _) hh
    refine ⟨_, hstep, ?_, htimers⟩
    rw [endStep_getV, State.getV_setV_same]
    rfl
  · exact ⟨_, step_of_exec (i := .ldDtVx x) rfl hh hf (exec_ldDtVx x _) hh⟩
  · exact ⟨_, step_of_exec (i := .ldStVx x) rfl hh hf (exec_ldStVx x _) hh⟩

end Sys2Proof.Machine
end

section
/-! Faults and the host's actions (spec 60 R190 to R195, R203 to R206, R211 to R213): which steps fault and what they
latch, what a halted block ignores, and what TICK, RESET and the sound outputs do. -/

namespace Sys2Proof.Machine

/-! ## Every step and every handler answers -/

/-- Settles O10, by `step_answers`, and for a handler by its frame, which holds of an answered state. -/
theorem stepAlwaysAnswersANextState : Obligations.StepAlwaysAnswersANextState := by
  refine ⟨step_answers, fun i s => ?_⟩
  obtain ⟨t, ht, -⟩ := exec_onlyWrites i s
  exact ⟨t, ht⟩

/-! ## Faults (60 R190, R193) -/

/-- A step whose handler raises a fault latches it, with the word that was fetched. -/
theorem latchesFault_of_exec {s t : State} {i : Instr} {c : FaultCode} (hi : i.wf = true) (hh : s.halted = false)
    (hf : s.fetch = some (encode i)) (hu : exec i (beginStep s) = .next ((beginStep s).takeHandlerFault c i))
    (h : step s = .next t) : LatchesFault c (encode i) s t := by
  have hstep : step s = .next ((beginStep s).takeHandlerFault c i) := by
    rw [step_of_instr hh hf (decode_encode hi), hu, finishStep, endStep_of_halted rfl]
  cases h.symm.trans hstep
  rw [takeHandlerFault_beginStep]
  exact latchesFault_setFaultStatus s c (encode i)

theorem endStep_same_faultStatus (s : State) : Part.faultStatus.Same s (endStep s) := by
  obtain ⟨-, hparts, -, -⟩ := onlyWrites_endStep s
  exact hparts .faultStatus (by simp)

/-- A step of a running block meets one of the three conditions of a fault, or latches and reports none. -/
theorem step_faultCondition_or_none {s t : State} (hh : s.halted = false) (h : step s = .next t) :
    s.fetch = none ∨ (s.sp = 16 ∧ ∃ nnn, s.fetch = some (encodeNnn 0x2 nnn)) ∨ (s.sp = 0 ∧ s.fetch = some 0x00EE) ∨
      (Part.faultStatus.Same s t ∧ t.report.fault = .none) := by
  obtain ⟨hh', -⟩ | ⟨-, hf, -⟩ | ⟨w, i, u, -, hf, hd, hu, rfl⟩ | ⟨w, e, -, -, -, rfl⟩ := step_cases h
  · simp [hh] at hh'
  · exact .inl hf
  · rw [← encode_of_decode hd] at hf
    obtain ⟨rfl, hsp, -⟩ | ⟨⟨nnn, rfl⟩, hsp, -⟩ | hn := exec_cases hu
    · exact .inr (.inr (.inl ⟨hsp, hf⟩))
    · exact .inr (.inl ⟨hsp, nnn, hf⟩)
    · refine .inr (.inr (.inr ⟨?_, ?_⟩))
      · exact Part.same_trans (t := u) hn.faultStatus (endStep_same_faultStatus u)
      · rw [endStep_report, hn.fault]; rfl
  · refine .inr (.inr (.inr ⟨endStep_same_faultStatus (unknownWord (beginStep s)), ?_⟩))
    rw [endStep_report]; rfl

/-- Settles O11: under each of the three conditions the fetch or the handler raises its fault, and under none of them
`step_faultCondition_or_none` leaves one case. -/
theorem faultsAreExactAndPrecise : Obligations.FaultsAreExactAndPrecise := by
  intro s t hh h
  split_ifs with hf hcall hret
  · rw [step_of_no_fetch hh hf] at h
    cases h
    exact latchesFault_setFaultStatus s .fetchOutOfRange 0
  · obtain ⟨hsp, nnn, hw⟩ := hcall
    have hfull : (beginStep s).sp.val = 16 := congrArg Fin.val hsp
    exact ⟨_, hw, latchesFault_of_exec (i := .call nnn) rfl hh hw (exec_call_of_full nnn hfull) h⟩
  · obtain ⟨hsp, hw⟩ := hret
    have hempty : (beginStep s).sp.val = 0 := congrArg Fin.val hsp
    exact latchesFault_of_exec (i := .ret) rfl hh hw (exec_ret_of_empty hempty) h
  · obtain hc | hc | hc | hnone := step_faultCondition_or_none hh h
    · exact absurd hc hf
    · exact absurd hc hcall
    · exact absurd hc hret
    · exact hnone

/-! ## The halted block (60 R194) and TICK (60 R213) -/

theorem tick_of_halted {s : State} (hh : s.halted = true) : tick s = s := by
  obtain ht | ⟨hrun, -⟩ := tick_cases s
  · exact ht
  · simp [hh] at hrun

theorem tick_of_running {s : State} (hp : s.params.timerSource = .externalTick) (hh : s.halted = false) :
    tick s = timerPhase s := by simp [tick, hp, hh]

/-- Settles O9: the step's first check, and `tick_of_halted`. -/
theorem haltedBlockChangesNothing : Obligations.HaltedBlockChangesNothing := fun _ hh =>
  ⟨step_of_halted hh, tick_of_halted hh⟩

/-- Settles O51: TICK is the timer phase, which counts each timer down by `countDown_toNat`. -/
theorem tickRunsTheTimerPhase : Obligations.TickRunsTheTimerPhase := by
  intro s hp hh
  rw [act, tick_of_running hp hh]
  exact ⟨countDown_toNat s.dt, countDown_toNat s.st, onlyWrites_setTimers s _ _⟩

/-! ## RESET, the invariant and the sound outputs -/

/-- Settles O49: `resetWith` writes the fault status and `pc` of `State.reset`, whatever the state was. -/
theorem resetActionClearsAFault : Obligations.ResetActionClearsAFault := fun _ => ⟨rfl, rfl, rfl, rfl⟩

/-- Settles O56, by `inv_act`. -/
theorem everyHostActionKeepsTheInvariant : Obligations.EveryHostActionKeepsTheInvariant := fun a _ hi => inv_act a hi

/-- Settles O52: a timer is 0 exactly when its number is. -/
theorem soundOutputsFollowTheSoundTimer : Obligations.SoundOutputsFollowTheSoundTimer := by
  intro s
  have hzero : s.st = 0 ↔ s.st.toNat = 0 := BitVec.toNat_inj.symm
  refine ⟨?_, rfl⟩
  rw [soundOn, decide_eq_true_iff, Ne, hzero]

end Sys2Proof.Machine
end

section
/-! The boot-time load (spec 70 R236): what each byte of memory reads as after the loop of `Load`, and when the loop runs
past 0xFFF. -/

namespace Sys2Proof.Machine

theorem loadFrom_cons_of_le {a : Nat} (h : a ≤ 0xFFF) (b : Byte) (bs : List Byte) (m : Memory) :
    loadFrom a (b :: bs) m = loadFrom (a + 1) bs (m.write (BitVec.ofNat 12 a) b) := by
  rw [loadFrom, if_neg (Nat.not_lt.2 h)]

theorem loadFrom_cons_of_gt {a : Nat} (h : 0xFFF < a) (b : Byte) (bs : List Byte) (m : Memory) :
    loadFrom a (b :: bs) m = (m, .romTooLarge) := by
  rw [loadFrom, if_pos h]

/-- The load puts its bytes from address `a` on, as far as memory goes, and leaves every other byte alone. -/
theorem loadFrom_read (a : Nat) (bs : List Byte) {m : Memory} (hwf : m.wf = true) (k : Addr) :
    (loadFrom a bs m).1.read k = if k.toNat < a then m.read k else bs[k.toNat - a]?.getD (m.read k) := by
  induction bs generalizing a m with
  | nil => simp [loadFrom]
  | cons b bs ih =>
    have hk : k.toNat < 4096 := k.isLt
    obtain ha | ha := Nat.lt_or_ge 0xFFF a
    · rw [loadFrom_cons_of_gt ha, if_pos (by omega)]
    · have haddr : (BitVec.ofNat 12 a).toNat = a := Nat.mod_eq_of_lt (by omega)
      rw [loadFrom_cons_of_le ha, ih (a + 1) (Memory.wf_write m _ b hwf)]
      obtain rfl | hne := eq_or_ne k (BitVec.ofNat 12 a)
      · simp [haddr, Memory.read_write_same m _ b hwf]
      · have hne' : k.toNat ≠ a := fun h => hne (BitVec.eq_of_toNat_eq (h.trans haddr.symm))
        rw [Memory.read_write_ne m b hne]
        obtain hlt | hgt := Nat.lt_or_gt_of_ne hne'
        · rw [if_pos hlt, if_pos (Nat.lt_succ_of_lt hlt)]
        · rw [if_neg (by omega), if_neg (by omega), show k.toNat - a = k.toNat - (a + 1) + 1 by omega,
            List.getElem?_cons_succ]

/-- A load from within memory, or from just past its end, is OK exactly when its bytes fit before address 4096. -/
theorem loadFrom_result {a : Nat} (ha : a ≤ 4096) (bs : List Byte) (m : Memory) :
    (loadFrom a bs m).2 = if a + bs.length ≤ 4096 then .ok else .romTooLarge := by
  induction bs generalizing a m with
  | nil => simp [loadFrom, ha]
  | cons b bs ih =>
    rw [List.length_cons]
    obtain hgt | hle := Nat.lt_or_ge 0xFFF a
    · rw [loadFrom_cons_of_gt hgt, if_neg (by omega)]
    · rw [loadFrom_cons_of_le hle, ih (by omega), Nat.add_right_comm, Nat.add_assoc]

theorem boot_result (p : Params) (program : List Byte) :
    (boot p program).2 = if program.length ≤ 3584 then .ok else .romTooLarge := by
  have hfit : 0x200 + program.length ≤ 4096 ↔ program.length ≤ 3584 := by omega
  rw [boot, loadFrom_result (by decide)]
  simp only [hfit]

/-- Settles O50: the bytes are `loadFrom_read` from 0x200 on, the load writes memory alone, and `boot_result` says what
it returns. -/
theorem loadFillsProgramSpace : Obligations.LoadFillsProgramSpace := by
  intro p program
  obtain ⟨hwf, -⟩ := inv_resetWith p
  refine ⟨loadFrom_read 0x200 program hwf, onlyWrites_setMem _ _, ?_⟩
  rw [boot_result]
  obtain hle | hgt := le_or_gt program.length 3584
  · simp [hle]
  · simp [hgt, Nat.not_le.2 hgt]

end Sys2Proof.Machine
end
